-- ==== Sys2Proof/Word.lean ====
section
/-! DEFINITION. The words of the OW-16: bytes, 32-bit microsecond times, station numbers and 16-member station sets
(00_scope, Conventions). -/

namespace Sys2Proof

/-- One byte of the race bus or of the host port. -/
abbrev Byte := BitVec 8

/-- A 32-bit count of microseconds that wraps (00_scope, "Time arithmetic"). -/
abbrev Time := BitVec 32

/-- A station number, 0 to 15. -/
abbrev Station := Fin 16

/-- A set of stations as a 16-bit mask in which bit n stands for station n (00_scope, "Station sets"). -/
abbrev StationSet := BitVec 16

end Sys2Proof
end

