-- ==== Sys2Proof/Config.lean ====
section
/-! DEFINITION. What the part fixes (the constants of the manual) and the free values (what the manual leaves open). -/

namespace Sys2Proof.Config

/-- The sync byte (R3, frame table). -/
def syncByte : Byte := 0x5D#8

/-- One bit time in eighths of a microsecond, by the RATE strap: 0.25 µs at 4 Mbit/s, 0.125 µs at 8 Mbit/s (R1). -/
def bitEighths (rate : Bool) : Nat := if rate then 1 else 2

/-- A byte travels as 10 bit times (R1). -/
def byteEighths (rate : Bool) : Nat := 10 * bitEighths rate

/-- The gap G after which the line is idle: 48 bit times (R2). -/
def gapEighths (rate : Bool) : Nat := 48 * bitEighths rate

/-- A deferral slot: 32 bit times (R2). -/
def slotEighths (rate : Bool) : Nat := 32 * bitEighths rate

/-- The freeze timer, in µs of T (R64). -/
def freezeTime : Nat := 20000

/-- The abort hold, in µs of T (R100). -/
def abortHold : Nat := 250000

/-- The race limit after the agreed start, in µs of C (R153). -/
def raceLimit : Time := 1800000000#32

/-- A LOST sender outside the race phases becomes ABSENT at this lobby-expiry count (R31). -/
def lobbyExpiry : Nat := 32

/-- The most bytes the command and operand buffer holds: the command byte, the two operand bytes and the 24 steps of SET
PATTERN (11, State; R172). -/
def bufferDepth : Nat := 51

/-- The most entries the Receive Queue holds (R57). -/
def queueDepth : Nat := 8

/-- The release margins of the proximity windows: along the course in tu, and across it in units of 10 cm (R143). -/
def marginLength : Int := 100

/-- The release margin across the course (R143). -/
def marginWidth : Int := 5

/-- FREE VALUE (assumption 2). The part's sequence generator: "Any value in the range may be drawn" (R11). -/
opaque deferralDraw : Nat → Nat

/-- FREE VALUE (assumption 3). Which of several own events, and of the host's byte on HDI, that fall due at one microsecond
is taken first: the rules say "either may be taken first" (R64, R67, R82, R103, R138, R148, R166). -/
opaque eventOrder : Nat → Nat

/-- FREE VALUE (assumption 4). Where the DNF check of a window expiry stands among the other work of that expiry:
"either may act first" (R159). -/
opaque dnfOrder : Nat → Nat

end Sys2Proof.Config
end

