-- ==== Sys2Proof/Syntax.lean ====
section
/-! DEFINITION. The commands of the block: one constructor per row of spec/opcode_table.json.  A row that is a command of
the host port carries that command's operands at the widths of the formats section (11, "Operands"); a row that is an
event of the race bus carries what the line shows the part at that event; a row that is an expiry carries nothing. -/

namespace Sys2Proof

/-- One byte as the receiver reads it off the line: its value, and whether its stop bit was sampled low (R1). -/
structure RxByte where
  value : Byte
  framingError : Bool
  deriving DecidableEq, Repr

/-- The 38 operand bytes of CONFIGURE in the order of the formats section (R192). -/
structure Parameters where
  period : BitVec 16
  window : Byte
  on : Byte
  off : Byte
  dropout : Byte
  horizon : BitVec 32
  blend : BitVec 32
  snap : BitVec 16
  startLead : BitVec 32
  finishWindow : Byte
  dnfTimeout : Byte
  linkDelay : Byte
  slew : BitVec 16
  lockBound : BitVec 16
  courses : Byte
  laps : Byte
  options : Byte
  sweepGap : BitVec 16
  contactLength : BitVec 16
  contactWidth : Byte
  draftLength : BitVec 16
  draftWidth : Byte
  deriving DecidableEq, Repr

/-- The twelve operand bytes of POST CAR (R110). -/
structure CarPost where
  lap : Byte
  position : BitVec 24
  speed : BitVec 16
  accel : BitVec 16
  lateral : Byte
  flags : Byte
  age : BitVec 16
  deriving DecidableEq, Repr

/-- The commands and events of the part, in the order of spec/opcode_table.json. -/
inductive Instr where
  /-- RESET is driven low (R200). -/
  | resetAssert
  /-- Power-on settling or release of the reset pin, with the levels of the straps at that instant (R200). -/
  | resetRelease (station : Station) (rate : Bool) (auto : Bool)
  | readStatus
  | readEvents
  /-- The last response byte of READ EVENTS has been clocked out (R198). -/
  | readEventsEnd
  | setEventMask (mask : BitVec 24)
  | softReset
  /-- The rise of HSEL after SOFT RESET (R202). -/
  | softResetActs
  | configure (p : Parameters)
  | setCourse (index : Byte) (length : BitVec 32)
  /-- The step count byte is the number of steps (R172). -/
  | setPattern (index : Byte) (steps : List (Byte × Byte))
  | join
  | leave
  | newRace
  | setOffer (courses laps options : Byte)
  | setReady
  | clearReady
  | readLobby
  | readCountdown
  | readClock
  | readPeer (station : Byte)
  | freeze
  | thaw
  | clearFaults
  | postCar (p : CarPost)
  | readCars
  | proxOn
  | proxOff
  | readProx
  | readStandings (start count : Byte)
  | readLine (place pattern : Byte)
  /-- A command byte that names no command (R191). -/
  | unknownCommand (code : Byte)
  /-- HSEL rises before the command instant, after this many rising edges of HCLK (R189). -/
  | truncated (clocks : Nat)
  | responseEndedEarly
  | framePeriodExpiry
  /-- A start bit appears on the line (R2). -/
  | lineActivity
  /-- The stop bit of the first byte of a run ends (R3, R17). -/
  | startMark
  /-- The gap G has passed with no start bit; the bytes are those the receiver collected in the run that ends (R2, R17). -/
  | lineIdle (run : List RxByte)
  | deferralSlot
  /-- The echo of the byte at this index of the frame on the line, which differs from the byte sent or has a framing
  error (R12, R13). -/
  | collision (index : Nat) (echo : RxByte)
  /-- The echo of the second CRC byte, which matches (R12, R14). -/
  | txSuccess (echo : RxByte)
  | windowExpiry
  | debtPayment
  | freezeTimerExpiry
  | abortHoldExpiry
  | sweepStep
  | startInstant
  | finishDeadline
  | raceLimit
  /-- HSEL falls (R187). -/
  | transactionBegin
  /-- HSEL rises after the whole response, or in DISCARD (R198, R191). -/
  | transactionEnd
  deriving DecidableEq, Repr

end Sys2Proof
end

