-- ==== Sys2Proof/Machine/State.lean ====
section
/-! DEFINITION. The state of one OW-16: one structure per block of the block diagram (00_scope), the reasons a step could
stop, one update per block, and the state after reset.  Each block's structure stands beside its value after power-on. -/

namespace Sys2Proof.Machine

/-! ## Fixed sets of names (11, "Enumerations") -/

/-- The phase of the session (05, "The session phases"). -/
inductive Phase where
  | offline | lobby | proposing | armed | racing | finished | results
  deriving DecidableEq, Repr

/-- The phase a beacon can name (R5). -/
inductive BeaconPhase where
  | lobby | proposing | armed
  deriving DecidableEq, Repr

/-- The clock state (R42). -/
inductive ClockState where
  | free | locked | drifting
  deriving DecidableEq, Repr

/-- The presence state of a sender (02). -/
inductive Presence where
  | absent | acquiring | present | fading | lost
  deriving DecidableEq, Repr

/-- The kind of the latest frame applied from a sender (R56). -/
inductive LastKind where
  | none | beacon | car
  deriving DecidableEq, Repr

/-- The race status of a starter (R154).  NONE of READ CARS is no starter's status. -/
inductive RaceStatus where
  | running | lost | finished | dnf | withdrawn | unfinished
  deriving DecidableEq, Repr

/-- The proximity state of a station (R134). -/
inductive ProxState where
  | clear | draft | contact
  deriving DecidableEq, Repr

/-- The condition that ended the race (R164). -/
inductive EndCause where
  | allDone | finishWindow | raceLimit
  deriving DecidableEq, Repr

/-- The cause of the latest abort (R96, R101, R106). -/
inductive AbortCause where
  | clock | member | host | leave
  deriving DecidableEq, Repr

/-- The transaction state of the Host Port (R187). -/
inductive PortState where
  | idle | command | operands | response | discard
  deriving DecidableEq, Repr

/-- The status byte (R188). -/
inductive Status where
  | ok | phase | locked | operand | busy | unknown
  deriving DecidableEq, Repr

/-- The state of the line (R2). -/
inductive Line where
  | busy | idle
  deriving DecidableEq, Repr

/-- The 20 event kinds, in the order of the event bits (11, "Event bits"). -/
inductive Event where
  | peerUp | peerLost | peerBack | chatter | stationClash | clockState | ruleChange | cleardown | armed | aborted
  | started | contact | draftChange | peerFinished | raceOver | freezeExpired | rxqHigh | rxqOverrun | truncated
  | frameDropped
  deriving DecidableEq, Repr

/-! ## Records carried in frames -/

/-- An offer: course mask, lap mask and option mask; option bit 0 is CONTACT, bit 1 is DRAFT (R78). -/
structure Offer where
  courses : BitVec 8
  laps : BitVec 4
  options : BitVec 2
  deriving DecidableEq, Repr

/-- A rule that is not NONE (R83). -/
structure Rule where
  course : BitVec 3
  lapCode : BitVec 2
  options : BitVec 2
  deriving DecidableEq, Repr

/-- The resolved-rule byte of a beacon, as carried (R5; 11, "Beacon body"). -/
structure RuleField where
  isNone : Bool
  course : BitVec 3
  lapCode : BitVec 2
  options : BitVec 2
  deriving DecidableEq, Repr

/-- The content of a beacon (R5). -/
structure Beacon where
  phase : BeaconPhase
  ready : Bool
  abort : Bool
  offer : Offer
  roster : StationSet
  rule : RuleField
  proposal : Option Time
  agreed : Option Time
  deriving DecidableEq, Repr

/-- A car record (R6, R108).  FINISHED is set exactly when the finish time is present. -/
structure CarRecord where
  lap : Byte
  position : BitVec 24
  speed : BitVec 16
  accel : BitVec 16
  lateral : Byte
  inPit : Bool
  offTrack : Bool
  respawn : Bool
  recordTime : Time
  finish : Option Time
  deriving DecidableEq, Repr

/-- The body of a frame (R4). -/
inductive Body where
  | beacon (b : Beacon)
  | car (c : CarRecord)
  deriving DecidableEq, Repr

/-- A frame as assembled, and as the Receive Queue holds it: sender, session tag and body (R9, R57). -/
structure Frame where
  sender : Station
  tag : Byte
  body : Body
  deriving DecidableEq, Repr

/-! ## Straps and configuration store -/

/-- The sampled straps (R200). -/
structure Straps where
  station : Station
  rate : Bool
  auto : Bool
  deriving DecidableEq, Repr

/-- The configuration store: the parameters of CONFIGURE and the course table (R192, R193); a course of length 0 is
absent (R79). -/
structure Store where
  period : Nat
  window : Nat
  on : Nat
  off : Nat
  dropout : Nat
  horizon : Nat
  blend : Nat
  snap : Nat
  startLead : Nat
  finishWindow : Nat
  dnfTimeout : Nat
  linkDelay : Nat
  slew : Nat
  lockBound : Nat
  operator : Offer
  sweepGap : Nat
  contactLength : Nat
  contactWidth : Nat
  draftLength : Nat
  draftWidth : Nat
  courses : Vector Nat 8
  deriving DecidableEq, Repr

/-- An offer of all ones (R72). -/
def Offer.full : Offer := { courses := 0xFF#8, laps := 0xF#4, options := 3#2 }

/-- The defaults of the configuration store (R192, R193). -/
def Store.default : Store :=
  { period := 4000, window := 16, on := 12, off := 6, dropout := 3, horizon := 250000, blend := 100000, snap := 500,
    startLead := 5000000, finishWindow := 30, dnfTimeout := 10, linkDelay := 2, slew := 100, lockBound := 250,
    operator := Offer.full, sweepGap := 500, contactLength := 450, contactWidth := 20, draftLength := 3000,
    draftWidth := 10, courses := #v[300000, 0, 0, 0, 0, 0, 0, 0] }

/-! ## The Bus Interface (01) -/

/-- The run of bytes on the line, as the receiver holds it: no run open, the first byte of a run under way, or a run past
its start mark with its capture and its echo mark (R17). -/
inductive Run where
  | closed
  | opening
  | collecting (capture : Time) (echo : Bool)
  deriving DecidableEq, Repr

/-- The transmitter: its state, the frame in current with its attempt count, the deferral count in DEFER, and in SENDING
the clock stamp once the start mark has passed, the closing mark of R15 and the frame in pending.  Pending holds a frame
in SENDING and in no other state (01, "The transmitter"). -/
inductive Tx where
  | idle
  | waitIdle (current : Frame) (attempt : Nat)
  | defer (current : Frame) (attempt slots : Nat)
  | sending (current : Frame) (attempt : Nat) (stamp : Option Time) (closing : Bool) (pending : Option Frame)
  deriving DecidableEq, Repr

/-- The Bus Interface.  `period` is the time of T left on the frame period timer, absent while it is stopped (R8). -/
structure Bus where
  line : Line
  run : Run
  period : Option Nat
  tx : Tx
  badFrames : BitVec 16
  collisions : BitVec 16
  dropped : BitVec 16
  deriving DecidableEq, Repr

/-- R2, R8, R16, R21. -/
def Bus.powerOn : Bus :=
  { line := .busy, run := .closed, period := none, tx := .idle, badFrames := 0, collisions := 0, dropped := 0 }

/-! ## The Link Monitor (02) -/

/-- The record of one sender. -/
structure Sender where
  count : BitVec 8
  presence : Presence
  fade : Nat
  expiry : Nat
  lostAt : Option Time
  chatter : Bool
  sample : Option (BitVec 32)
  deriving DecidableEq, Repr

/-- R36. -/
def Sender.powerOn : Sender :=
  { count := 0, presence := .absent, fade := 0, expiry := 0, lostAt := none, chatter := false, sample := none }

/-- The Link Monitor.  `window` is the time of T left on the quality window timer (R22). -/
structure Link where
  window : Nat
  senders : Vector Sender 16
  deriving DecidableEq, Repr

/-- R36: a window of the default 16 × 4000 µs. -/
def Link.powerOn : Link := { window := 64000, senders := Vector.replicate 16 Sender.powerOn }

/-! ## The Race Clock (03) -/

/-- The Race Clock: timebase T, correction k, retard debt, payment count and clock state. -/
structure Clock where
  t : Time
  k : Time
  debt : Nat
  payment : Nat
  state : ClockState
  deriving DecidableEq, Repr

/-- R54. -/
def Clock.powerOn : Clock := { t := 0, k := 0, debt := 0, payment := 0, state := .free }

/-! ## Peer Table and Receive Queue (04) -/

/-- One peer entry (R55); each optional part is present whole or absent whole and stands beside its session tag. -/
structure Entry where
  beacon : Option (Byte × Beacon)
  car : Option (Byte × CarRecord)
  residual : Int
  blendStart : Time
  lastKind : LastKind
  deriving DecidableEq, Repr

/-- An empty entry (R55). -/
def Entry.empty : Entry := { beacon := none, car := none, residual := 0, blendStart := 0, lastKind := .none }

/-- A freeze under way: the view time V and the time of T left on the freeze timer (R64). -/
structure Freeze where
  view : Time
  left : Nat
  deriving DecidableEq, Repr

/-- The Peer Table, the Receive Queue (head first), the freeze and the two counters. -/
structure Table where
  entries : Vector Entry 16
  queue : List Frame
  freeze : Option Freeze
  merges : BitVec 16
  overruns : BitVec 16
  deriving DecidableEq, Repr

/-- R69, R70. -/
def Table.powerOn : Table :=
  { entries := Vector.replicate 16 Entry.empty, queue := [], freeze := none, merges := 0, overruns := 0 }

/-! ## The Session Controller (05, 06, 09) -/

/-- The Session Controller.  The abort flag is set exactly while its hold timer runs, so `abortHold` holds both: the time
of T left, absent while the flag is clear (R99, R100). -/
structure Session where
  phase : Phase
  ready : Bool
  hostOffer : Offer
  effective : Offer
  lobbySet : StationSet
  rule : Option Rule
  held : Bool
  cleardownMark : Bool
  abortHold : Option Nat
  roster : Option StationSet
  proposals : Vector (Option Time) 16
  agreed : Option Time
  tag : Byte
  lastAbort : Option (AbortCause × Option Station)
  earliest : Option Time
  deadline : Option Time
  limit : Option Time
  deriving DecidableEq, Repr

/-- R72, R106, R152, with the effective offer of the default store. -/
def Session.powerOn (own : Station) : Session :=
  { phase := .offline, ready := false, hostOffer := Offer.full,
    effective := { courses := 1#8, laps := 0xF#4, options := 3#2 },
    lobbySet := 1#16 <<< own.val, rule := none, held := false, cleardownMark := false, abortHold := none, roster := none,
    proposals := Vector.replicate 16 none, agreed := none, tag := 0, lastAbort := none, earliest := none,
    deadline := none, limit := none }

/-! ## Motion Unit (07), Proximity Monitor (08), Standings Unit (09), Readout Formatter (10) -/

/-- The own car record: the live copy and the frozen copy (R108, R109). -/
structure Motion where
  live : Option CarRecord
  frozen : Option CarRecord
  deriving DecidableEq, Repr

/-- The proximity state and the last closing speed of one station (R134). -/
structure ProxEntry where
  state : ProxState
  closing : Int
  deriving DecidableEq, Repr

/-- CLEAR with closing speed 0 (R134). -/
def ProxEntry.clear : ProxEntry := { state := .clear, closing := 0 }

/-- The Proximity Monitor.  `timer` is the time of T left on the sweep timer, absent while it is stopped (R135). -/
structure Prox where
  enabled : Bool
  position : Station
  timer : Option Nat
  peers : Vector ProxEntry 16
  deriving DecidableEq, Repr

/-- R134. -/
def Prox.powerOn : Prox :=
  { enabled := true, position := 0, timer := none, peers := Vector.replicate 16 ProxEntry.clear }

/-- The record of one starter (09). -/
structure Starter where
  status : RaceStatus
  finish : Option Time
  heldAt : Option Nat
  deriving DecidableEq, Repr

/-- One entry of a standings list (R167, R168); a value that is not present is absent here. -/
structure Standing where
  place : Nat
  station : Station
  status : RaceStatus
  distance : Nat
  lap : Nat
  elapsed : Option Nat
  finish : Option Time
  gapT : Option Nat
  gapD : Option Nat
  delta : Option Int
  deriving DecidableEq, Repr

/-- The Standings Unit. -/
structure Standings where
  starters : Vector (Option Starter) 16
  final : Option (List Standing)
  overAt : Option Time
  cause : Option EndCause
  deriving DecidableEq, Repr

/-- R152: nothing held. -/
def Standings.empty : Standings :=
  { starters := Vector.replicate 16 none, final := none, overAt := none, cause := none }

/-- The seven fields of a standings entry (R174). -/
inductive Field where
  | place | station | lap | elapsed | gapT | gapD | delta
  deriving DecidableEq, Repr

/-- The fifteen steps of an edit pattern with their arguments as stored (R173). -/
inductive Step where
  | sel (f : Field)
  | zs (n : Nat)
  | cp (n : Nat)
  | sk (n : Nat)
  | lit (c : Byte)
  | lits (c : Byte)
  | minus (c : Byte)
  | plus (c : Byte)
  | fill (c : Byte)
  | float (c : Byte)
  | fsign
  | sig
  | jz (n : Nat)
  | ja (n : Nat)
  | stop
  deriving DecidableEq, Repr

/-- The eight patterns, each unloaded or a list of steps (R171). -/
abbrev Patterns := Vector (Option (List Step)) 8

/-! ## The Host Port (11) -/

/-- Where the answer of a READ EVENTS stands: no such answer, being clocked out with this snapshot, or clocked out whole
with HSEL still low (R198). -/
inductive ReadEvents where
  | none
  | sending (snapshot : BitVec 20)
  | sent
  deriving DecidableEq, Repr

/-- One byte of a transaction as the host clocks it in on HDI: the µs of T from the fall of HSEL or the byte before it to
its last bit, and its value (R187).  The host sets the pace (assumption 9). -/
structure HdiByte where
  wait : Nat
  value : Byte
  deriving DecidableEq, Repr

/-- The Host Port.  `buffer` holds the bytes of the transaction not yet acted on, 51 at most, and `counted` how many have
been clocked in, stored or not (R172); `response` the status byte and the response bytes formed at the command instant;
`softReset` that SOFT RESET was taken and HSEL has not risen since.  `hdi` is the model's own, not the spec's: what the host
has still to clock in, which comes from outside as `State.pending` does (assumption 9). -/
structure Port where
  state : PortState
  hdi : List HdiByte
  buffer : List Byte
  counted : Nat
  response : List Byte
  latch : BitVec 20
  details : Vector Station 9
  mask : BitVec 20
  marks : BitVec 20
  readEvents : ReadEvents
  softReset : Bool
  deriving DecidableEq, Repr

/-- R203. -/
def Port.powerOn : Port :=
  { state := .idle, hdi := [], buffer := [], counted := 0, response := [], latch := 0, details := Vector.replicate 9 0,
    mask := 0, marks := 0, readEvents := .none, softReset := false }

/-! ## The whole state -/

/-- The state of one OW-16.  `inReset` says that the RESET line is low (R200).  `pending` is the queue of commands that
wait, and `choices` counts the free values drawn: both are the model's own, not the spec's (assumptions 2 and 21). -/
structure State where
  pending : List Instr
  choices : Nat
  inReset : Bool
  straps : Straps
  store : Store
  bus : Bus
  link : Link
  clock : Clock
  table : Table
  session : Session
  motion : Motion
  prox : Prox
  standings : Standings
  patterns : Patterns
  port : Port
  deriving DecidableEq, Repr

/-- Every block's power-on state with these sampled straps: what power-on, reset-pin release and SOFT RESET share (00_scope,
"Resets"; R200, R202).  The queue and the count of free values are the model's own and stay. -/
def State.powerOn (straps : Straps) (pending : List Instr) (choices : Nat) : State :=
  { pending := pending, choices := choices, inReset := false, straps := straps, store := Store.default,
    bus := Bus.powerOn, link := Link.powerOn, clock := Clock.powerOn, table := Table.powerOn,
    session := Session.powerOn straps.station, motion := { live := none, frozen := none }, prox := Prox.powerOn,
    standings := Standings.empty, patterns := Vector.replicate 8 none, port := Port.powerOn }

/-- The machine right after the release of the reset pin.  DESIGN CHOICE (assumption 1, unsafe): the straps are sampled
as station 0, RATE 0, AUTO 0; the spec leaves their levels to the cabinet. -/
def State.reset : State := State.powerOn { station := 0, rate := false, auto := false } [] 0

/-! ## One update per block -/

def State.setPending (s : State) (q : List Instr) : State := { s with pending := q }
def State.setChoices (s : State) (n : Nat) : State := { s with choices := n }
def State.setInReset (s : State) (b : Bool) : State := { s with inReset := b }
def State.setStore (s : State) (c : Store) : State := { s with store := c }
def State.setBus (s : State) (b : Bus) : State := { s with bus := b }
def State.setLink (s : State) (l : Link) : State := { s with link := l }
def State.setClock (s : State) (c : Clock) : State := { s with clock := c }
def State.setTable (s : State) (t : Table) : State := { s with table := t }
def State.setSession (s : State) (x : Session) : State := { s with session := x }
def State.setMotion (s : State) (m : Motion) : State := { s with motion := m }
def State.setProx (s : State) (p : Prox) : State := { s with prox := p }
def State.setStandings (s : State) (x : Standings) : State := { s with standings := x }
def State.setPatterns (s : State) (p : Patterns) : State := { s with patterns := p }
def State.setPort (s : State) (p : Port) : State := { s with port := p }

/-! ## Reasons to stop -/

/-- Faults.  The manual names no condition that stops the part, so there is none (assumption 22). -/
inductive Fault where
  deriving DecidableEq, Repr

/-- Refusals. -/
inductive Refusal where
  /-- Raised by `exec` alone, for a command that has no meaning in the model; safe.  No arm raises it at present. -/
  | notModelled (mnemonic : String)
  deriving DecidableEq, Repr

end Sys2Proof.Machine
end

