-- ==== Sys2Proof/Machine/Ops.lean ====
section
/-! DEFINITION. Operations every block shares: time on the race clock, station sets, per-station records, saturating
counters, the free values, and the byte order of the formats section (11, "Formats": most significant byte first). -/

namespace Sys2Proof.Machine

/-! ## Time (00_scope, "Time arithmetic") -/

/-- The signed 32-bit difference `a - b`. -/
def tdiff (a b : Time) : Int := (a - b).toInt

/-- "C reaches or passes t": C − t, as a signed 32-bit number, is 0 or greater. -/
def reached (c t : Time) : Bool := decide (0 ≤ tdiff c t)

/-- The race clock C = T + k (R40). -/
def State.now (s : State) : Time := s.clock.t + s.clock.k

/-! ## Station sets -/

/-- Every station number, rising. -/
def stations : List Station := [0, 1, 2, 3, 4, 5, 6, 7, 8, 9, 10, 11, 12, 13, 14, 15]

/-- Membership of a station in a set. -/
def member (m : StationSet) (st : Station) : Bool := m.getLsbD st.val

/-- The set holding one station. -/
def single (st : Station) : StationSet := 1#16 <<< st.val

/-- The set of the stations that a test accepts. -/
def setOf (p : Station → Bool) : StationSet :=
  stations.foldl (fun m st => if p st then m ||| single st else m) 0#16

/-- The members of a set, rising. -/
def members (m : StationSet) : List Station := stations.filter (member m)

/-- The station after this one, station 0 after station 15 (R136). -/
def nextStation (st : Station) : Station := st + 1

/-! ## Per-station records -/

/-- A record for every station, each made from the old one of that station. -/
def mapAll {α β : Type} (f : α → β) (v : Vector α 16) : Vector β 16 := ⟨(v.toList.map f).toArray, by simp⟩

/-- A record for every station, each made from the station number. -/
def buildAll {β : Type} (f : Station → β) : Vector β 16 := ⟨(stations.map f).toArray, rfl⟩

/-- The sender record of a station. -/
def Link.at (l : Link) (st : Station) : Sender := l.senders[st]

/-- Replace the sender record of a station. -/
def Link.put (l : Link) (st : Station) (x : Sender) : Link := { l with senders := l.senders.set st.val x }

/-- The Peer Table entry of a station. -/
def Table.at (t : Table) (st : Station) : Entry := t.entries[st]

/-- Replace the Peer Table entry of a station. -/
def Table.put (t : Table) (st : Station) (x : Entry) : Table := { t with entries := t.entries.set st.val x }

/-- The recorded proposal of a station. -/
def Session.proposalOf (x : Session) (st : Station) : Option Time := x.proposals[st]

/-- Record the proposal of a station. -/
def Session.putProposal (x : Session) (st : Station) (p : Option Time) : Session :=
  { x with proposals := x.proposals.set st.val p }

/-- The starter record of a station. -/
def Standings.at (x : Standings) (st : Station) : Option Starter := x.starters[st]

/-- Replace the starter record of a station. -/
def Standings.put (x : Standings) (st : Station) (r : Starter) : Standings :=
  { x with starters := x.starters.set st.val (some r) }

/-- The proximity entry of a station. -/
def Prox.at (p : Prox) (st : Station) : ProxEntry := p.peers[st]

/-- Replace the proximity entry of a station. -/
def Prox.put (p : Prox) (st : Station) (x : ProxEntry) : Prox := { p with peers := p.peers.set st.val x }

/-- A sender is live when it is PRESENT or FADING (02). -/
def Presence.live : Presence → Bool
  | .present => true
  | .fading => true
  | .absent => false
  | .acquiring => false
  | .lost => false

/-- Whether a station is live at the Link Monitor. -/
def State.live (s : State) (st : Station) : Bool := (s.link.at st).presence.live

/-- The own station number. -/
def State.own (s : State) : Station := s.straps.station

/-! ## Counters -/

/-- A 16-bit counter that saturates at 65,535 (R21, R69). -/
def satInc (n : BitVec 16) : BitVec 16 := if n = 0xFFFF#16 then n else n + 1#16

/-- An 8-bit count that saturates at 255 (R23). -/
def satInc8 (n : BitVec 8) : BitVec 8 := if n = 0xFF#8 then n else n + 1#8

/-! ## Integers -/

/-- "Clamped to a range" (00_scope, "Clamping"). -/
def clampInt (lo hi x : Int) : Int := max lo (min hi x)

/-- "Clamped to a range", for unsigned quantities. -/
def clampNat (lo hi x : Nat) : Nat := max lo (min hi x)

/-- "Rounded to the nearest, halves away from zero", by a positive divisor (00_scope, "Rounding"). -/
def divNearest (n : Int) (d : Int) : Int :=
  if 0 ≤ n then (2 * n + d) / (2 * d) else -((2 * -n + d) / (2 * d))

/-- "Rounded up to a multiple of m" (00_scope, "Rounding"). -/
def roundUp (m n : Nat) : Nat := (n + (m - 1)) / m * m

/-! ## Free values -/

/-- One free value in the range 0 to `range - 1`, drawn from a source of Config at the count of choices made. -/
def State.pick (s : State) (source : Nat → Nat) (range : Nat) : Nat := source s.choices % range

/-- The state after a free value has been drawn. -/
def State.picked (s : State) : State := s.setChoices (s.choices + 1)

/-! ## Byte order -/

/-- Two bytes, most significant first. -/
def be2 (x : BitVec 16) : List Byte := [x.extractLsb' 8 8, x.extractLsb' 0 8]

/-- Three bytes, most significant first. -/
def be3 (x : BitVec 24) : List Byte := [x.extractLsb' 16 8, x.extractLsb' 8 8, x.extractLsb' 0 8]

/-- Four bytes, most significant first. -/
def be4 (x : BitVec 32) : List Byte :=
  [x.extractLsb' 24 8, x.extractLsb' 16 8, x.extractLsb' 8 8, x.extractLsb' 0 8]

/-- A 16-bit field from its two bytes. -/
def of2 (a b : Byte) : BitVec 16 := a ++ b

/-- A 24-bit field from its three bytes. -/
def of3 (a b c : Byte) : BitVec 24 := a ++ b ++ c

/-- A 32-bit field from its four bytes. -/
def of4 (a b c d : Byte) : BitVec 32 := a ++ b ++ c ++ d

/-- One byte holding a natural number. -/
def byteOf (n : Nat) : Byte := BitVec.ofNat 8 n

/-- A mark byte: its bits from bit 0 upward (11, "Responses"). -/
def markByte : List Bool → Byte
  | [] => 0
  | b :: bs => (markByte bs <<< 1) ||| (if b then 1#8 else 0#8)

/-- An optional 32-bit field, sent as 0 when absent (11, "Responses"). -/
def be4o (x : Option (BitVec 32)) : List Byte := be4 (x.getD 0)

/-! ## Codes (11, "Enumerations" and "Status codes") -/

def Phase.code : Phase → Byte
  | .offline => 0 | .lobby => 1 | .proposing => 2 | .armed => 3 | .racing => 4 | .finished => 5 | .results => 6

def BeaconPhase.code : BeaconPhase → BitVec 2
  | .lobby => 1 | .proposing => 2 | .armed => 3

def ClockState.code : ClockState → Byte
  | .free => 0 | .locked => 1 | .drifting => 2

def Presence.code : Presence → Byte
  | .absent => 0 | .acquiring => 1 | .present => 2 | .fading => 3 | .lost => 4

def LastKind.code : LastKind → Byte
  | .none => 0 | .beacon => 1 | .car => 2

/-- Code 0, NONE, stands for a car outside a race. -/
def RaceStatus.code : RaceStatus → Byte
  | .running => 1 | .lost => 2 | .finished => 3 | .dnf => 4 | .withdrawn => 5 | .unfinished => 6

def ProxState.code : ProxState → Byte
  | .clear => 0 | .draft => 1 | .contact => 2

/-- Code 0, NONE, stands for a race not over. -/
def EndCause.code : EndCause → Byte
  | .allDone => 1 | .finishWindow => 2 | .raceLimit => 3

def AbortCause.code : AbortCause → Byte
  | .clock => 1 | .member => 2 | .host => 3 | .leave => 4

def Status.code : Status → Byte
  | .ok => 0x00 | .phase => 0x01 | .locked => 0x02 | .operand => 0x03 | .busy => 0x04 | .unknown => 0x0F

/-- The transmitter state as READ STATUS reports it. -/
def Tx.code : Tx → Byte
  | .idle => 0
  | .waitIdle _ _ => 1
  | .defer _ _ _ => 2
  | .sending _ _ _ _ _ => 3

/-- Whether the transmitter is in SENDING. -/
def Tx.isSending : Tx → Bool
  | .idle => false
  | .waitIdle _ _ => false
  | .defer _ _ _ => false
  | .sending _ _ _ _ _ => true

/-- RACING or FINISHED: the phases in which a race is under way at this station. -/
def Phase.inRace : Phase → Bool
  | .racing => true
  | .finished => true
  | .offline => false
  | .lobby => false
  | .proposing => false
  | .armed => false
  | .results => false

/-- OFFLINE, LOBBY, PROPOSING and ARMED: the phases outside the race phases (R31). -/
def Phase.outsideRace : Phase → Bool
  | .offline => true
  | .lobby => true
  | .proposing => true
  | .armed => true
  | .racing => false
  | .finished => false
  | .results => false

/-! ## Offers and rules -/

/-- Option bit 0: CONTACT. -/
def contactOn (o : BitVec 2) : Bool := o.getLsbD 0

/-- Option bit 1: DRAFT. -/
def draftOn (o : BitVec 2) : Bool := o.getLsbD 1

/-- The laps a lap code stands for (05, "The lap code"). -/
def lapsOf (code : BitVec 2) : Nat :=
  if code = 0#2 then 1 else if code = 1#2 then 2 else if code = 2#2 then 3 else 5

/-- The length of a course in the own course table, 0 when it is absent (R79). -/
def Store.courseLength (c : Store) (i : BitVec 3) : Nat := c.courses[i.toNat]'(i.isLt)

/-- Every course number, rising. -/
def courseNumbers : List (BitVec 3) := [0, 1, 2, 3, 4, 5, 6, 7]

/-- The set of installed courses (R79). -/
def Store.installed (c : Store) : BitVec 8 :=
  courseNumbers.foldl (fun m i => if c.courseLength i ≠ 0 then m ||| (1#8 <<< i.toNat) else m) 0#8

/-- The course length L of the resolved rule, 0 when the rule is NONE (R89). -/
def State.courseLength (s : State) : Nat :=
  match s.session.rule with
  | none => 0
  | some r => s.store.courseLength r.course

/-- The laps of the resolved rule, 0 when the rule is NONE (R89, R90). -/
def State.laps (s : State) : Nat :=
  match s.session.rule with
  | none => 0
  | some r => lapsOf r.lapCode

/-- The resolved rule as a beacon carries it: course, lap code and options are 0 when the rule is NONE (R5). -/
def ruleField : Option Rule → RuleField
  | none => { isNone := true, course := 0, lapCode := 0, options := 0 }
  | some r => { isNone := false, course := r.course, lapCode := r.lapCode, options := r.options }

/-- A carried rule that is not NONE and equals this rule in course, lap code and options (R91, R94). -/
def RuleField.agrees (f : RuleField) (r : Rule) : Bool :=
  !f.isNone && f.course == r.course && f.lapCode == r.lapCode && f.options == r.options

/-- The session tag of a race that starts at this time (R97). -/
def sessionTag (start : Time) : Byte :=
  let v := byteOf (start.toNat / 1000 % 256)
  if v = 0#8 then 1#8 else v

/-- The starting value of the own car record: the grid (R97, R126). -/
def gridRecord (start : Time) : CarRecord :=
  { lap := 0, position := 0, speed := 0, accel := 0, lateral := 0, inPit := false, offTrack := false, respawn := false,
    recordTime := start, finish := none }

end Sys2Proof.Machine
end

