-- ==== Sys2Proof/Decode.lean ====
section
/-! DEFINITION. The commands as words and bytes.  spec/opcode_table.json gives its rows no bits, so no word of the table spells
a command.  What the spec gives is the byte coding of the host port's commands (11, "Command codes" and "Operands"): it is
written here in both directions. -/

namespace Sys2Proof

/-- The command a word spells by the table's bits: the table gives no row any bits, so none. -/
def decodeTableWord (_nbits _w : Nat) : Option Instr := none

open Machine (be2 be3 be4 of2 of3 of4 byteOf)

/-- The command codes of the host port (11, "Command codes"). -/
def commandCodes : List Byte :=
  [0x01, 0x02, 0x03, 0x04, 0x08, 0x09, 0x0A, 0x10, 0x11, 0x12, 0x13, 0x14, 0x15, 0x16, 0x17, 0x20, 0x21, 0x22, 0x23, 0x24,
   0x30, 0x31, 0x38, 0x39, 0x3A, 0x40, 0x41]

/-- A command byte that names a command (R191). -/
def namesCommand (code : Byte) : Bool := commandCodes.contains code

/-- The number of operand bytes a command code calls for (11, "Command codes"); SET PATTERN's step count is its second
operand byte (R172, R187). -/
def operandLength (code : Byte) (operands : List Byte) : Nat :=
  if code = 0x08 then 38
  else if code = 0x30 then 12
  else if code = 0x09 then 5
  else if code = 0x0A then 2 + 2 * (operands.getD 1 0).toNat
  else if code = 0x03 ∨ code = 0x13 then 3
  else if code = 0x40 ∨ code = 0x41 then 2
  else if code = 0x21 then 1
  else 0

/-- The 38 operand bytes of CONFIGURE. -/
def parameterBytes (p : Parameters) : List Byte :=
  be2 p.period ++ [p.window, p.on, p.off, p.dropout] ++ be4 p.horizon ++ be4 p.blend ++ be2 p.snap ++ be4 p.startLead ++
    [p.finishWindow, p.dnfTimeout, p.linkDelay] ++ be2 p.slew ++ be2 p.lockBound ++ [p.courses, p.laps, p.options] ++
    be2 p.sweepGap ++ be2 p.contactLength ++ [p.contactWidth] ++ be2 p.draftLength ++ [p.draftWidth]

/-- The twelve operand bytes of POST CAR (R110). -/
def carPostBytes (p : CarPost) : List Byte :=
  [p.lap] ++ be3 p.position ++ be2 p.speed ++ be2 p.accel ++ [p.lateral, p.flags] ++ be2 p.age

/-- The step bytes of SET PATTERN: each step's code, then its argument (R172). -/
def stepBytes : List (Byte × Byte) → List Byte
  | [] => []
  | (code, arg) :: rest => code :: arg :: stepBytes rest

/-- The bytes a host clocks in for a command: the command byte and its operand bytes; none for an event, which no host
sends. -/
def commandBytes : Instr → Option (List Byte)
  | .readStatus => some [0x01]
  | .readEvents => some [0x02]
  | .setEventMask mask => some (0x03 :: be3 mask)
  | .softReset => some [0x04]
  | .configure p => some (0x08 :: parameterBytes p)
  | .setCourse index length => some (0x09 :: index :: be4 length)
  | .setPattern index steps => some (0x0A :: index :: byteOf steps.length :: stepBytes steps)
  | .join => some [0x10]
  | .leave => some [0x11]
  | .newRace => some [0x12]
  | .setOffer courses laps options => some [0x13, courses, laps, options]
  | .setReady => some [0x14]
  | .clearReady => some [0x15]
  | .readLobby => some [0x16]
  | .readCountdown => some [0x17]
  | .readClock => some [0x20]
  | .readPeer station => some [0x21, station]
  | .freeze => some [0x22]
  | .thaw => some [0x23]
  | .clearFaults => some [0x24]
  | .postCar p => some (0x30 :: carPostBytes p)
  | .readCars => some [0x31]
  | .proxOn => some [0x38]
  | .proxOff => some [0x39]
  | .readProx => some [0x3A]
  | .readStandings start count => some [0x40, start, count]
  | .readLine place pattern => some [0x41, place, pattern]
  | .unknownCommand code => some [code]
  | .resetAssert => none
  | .resetRelease _ _ _ => none
  | .readEventsEnd => none
  | .softResetActs => none
  | .truncated _ => none
  | .responseEndedEarly => none
  | .framePeriodExpiry => none
  | .lineActivity => none
  | .startMark => none
  | .lineIdle _ => none
  | .deferralSlot => none
  | .collision _ _ => none
  | .txSuccess _ => none
  | .windowExpiry => none
  | .debtPayment => none
  | .freezeTimerExpiry => none
  | .abortHoldExpiry => none
  | .sweepStep => none
  | .startInstant => none
  | .finishDeadline => none
  | .raceLimit => none
  | .transactionBegin => none
  | .transactionEnd => none

/-- The parameters of CONFIGURE read back from 38 bytes. -/
def readParameters : List Byte → Option Parameters
  | p1 :: p0 :: w :: on :: off :: dr :: h3 :: h2 :: h1 :: h0 :: b3 :: b2 :: b1 :: b0 :: s1 :: s0 :: l3 :: l2 :: l1 :: l0 ::
      fw :: dnf :: ld :: sl1 :: sl0 :: lb1 :: lb0 :: oc :: ol :: oo :: sg1 :: sg0 :: cl1 :: cl0 :: cw :: dl1 :: dl0 ::
      dw :: [] =>
    some
      { period := of2 p1 p0, window := w, on := on, off := off, dropout := dr, horizon := of4 h3 h2 h1 h0,
        blend := of4 b3 b2 b1 b0, snap := of2 s1 s0, startLead := of4 l3 l2 l1 l0, finishWindow := fw,
        dnfTimeout := dnf, linkDelay := ld, slew := of2 sl1 sl0, lockBound := of2 lb1 lb0, courses := oc, laps := ol,
        options := oo, sweepGap := of2 sg1 sg0, contactLength := of2 cl1 cl0, contactWidth := cw,
        draftLength := of2 dl1 dl0, draftWidth := dw }
  | _ => none

/-- The steps of SET PATTERN read back: an even number of bytes. -/
def readSteps : List Byte → Option (List (Byte × Byte))
  | [] => some []
  | [_] => none
  | code :: arg :: rest => (readSteps rest).map ((code, arg) :: ·)

/-- SET PATTERN read back: as many step bytes as the step count calls for (R172). -/
def readPattern (index count : Byte) (rest : List Byte) : Option Instr :=
  match readSteps rest with
  | some steps => if steps.length = count.toNat then some (.setPattern index steps) else none
  | none => none

/-- The command whose code has no operand bytes. -/
def plainCommand (code : Byte) : Option Instr :=
  match code.toNat with
  | 0x01 => some .readStatus
  | 0x02 => some .readEvents
  | 0x04 => some .softReset
  | 0x10 => some .join
  | 0x11 => some .leave
  | 0x12 => some .newRace
  | 0x14 => some .setReady
  | 0x15 => some .clearReady
  | 0x16 => some .readLobby
  | 0x17 => some .readCountdown
  | 0x20 => some .readClock
  | 0x22 => some .freeze
  | 0x23 => some .thaw
  | 0x24 => some .clearFaults
  | 0x31 => some .readCars
  | 0x38 => some .proxOn
  | 0x39 => some .proxOff
  | 0x3A => some .readProx
  | _ => if namesCommand code then none else some (.unknownCommand code)

/-- The command that a transaction's bytes spell, up to its command instant (R187, R188, R191); none while operand bytes
are due. -/
def decodeCommand : List Byte → Option Instr
  | [] => none
  | [code] => plainCommand code
  | code :: rest =>
    match code.toNat, rest with
    | 0x03, [a, b, c] => some (.setEventMask (of3 a b c))
    | 0x08, operands => (readParameters operands).map .configure
    | 0x09, [i, a, b, c, d] => some (.setCourse i (of4 a b c d))
    | 0x0A, index :: count :: steps => readPattern index count steps
    | 0x13, [a, b, c] => some (.setOffer a b c)
    | 0x21, [a] => some (.readPeer a)
    | 0x30, [lap, p2, p1, p0, v1, v0, a1, a0, lateral, flags, g1, g0] =>
      some (.postCar
        { lap := lap, position := of3 p2 p1 p0, speed := of2 v1 v0, accel := of2 a1 a0, lateral := lateral,
          flags := flags, age := of2 g1 g0 })
    | 0x40, [a, b] => some (.readStandings a b)
    | 0x41, [a, b] => some (.readLine a b)
    | _, _ => none

end Sys2Proof
end

