-- ==== Sys2Proof/Machine/Formatter.lean ====
section
/-! DEFINITION. The Readout Formatter: steps and their codes (R172, R173), the fields of an entry (R174 to R176), and the run
of a pattern (R177 to R185).  The formatting state exists only while one READ LINE is answered, so it is no part of State. -/

namespace Sys2Proof.Machine

/-! ## Loading a pattern -/

/-- A field code, 0 to 6 (R174). -/
def ofFieldCode (n : Nat) : Option Field :=
  match n with
  | 0 => some .place | 1 => some .station | 2 => some .lap | 3 => some .elapsed | 4 => some .gapT | 5 => some .gapD
  | 6 => some .delta
  | _ => none

/-- A character argument as stored: outside 0x20 to 0x7E it is stored as '?' (R173). -/
def storedChar (c : Byte) : Byte := if 0x20 ≤ c.toNat ∧ c.toNat ≤ 0x7E then c else 0x3F#8

/-- One step from its code and argument; none for a code that names no step or a field code above 6 (R172, R173). -/
def ofStepBytes (code arg : Byte) : Option Step :=
  match code.toNat with
  | 0x01 => (ofFieldCode arg.toNat).map .sel
  | 0x02 => some (.zs arg.toNat)
  | 0x03 => some (.cp arg.toNat)
  | 0x04 => some (.sk arg.toNat)
  | 0x05 => some (.lit (storedChar arg))
  | 0x06 => some (.lits (storedChar arg))
  | 0x07 => some (.minus (storedChar arg))
  | 0x08 => some (.plus (storedChar arg))
  | 0x09 => some (.fill (storedChar arg))
  | 0x0A => some (.float (storedChar arg))
  | 0x0B => some .fsign
  | 0x0C => some .sig
  | 0x0D => some (.jz arg.toNat)
  | 0x0E => some (.ja arg.toNat)
  | 0x0F => some .stop
  | _ => none

/-- Every step of a list, or none if one cannot be used (R172). -/
def ofSteps : List (Byte × Byte) → Option (List Step)
  | [] => some []
  | (code, arg) :: rest =>
    match ofStepBytes code arg, ofSteps rest with
    | some x, some xs => some (x :: xs)
    | _, _ => none

/-! ## Fields -/

/-- So many decimal digits of a number, most significant first, padded with zeros on the left (R174). -/
def digits : Nat → Nat → List Nat
  | 0, _ => []
  | w + 1, n => digits w (n / 10) ++ [n % 10]

/-- The seven time digits MMSSmmm of a value in ms (R175). -/
def timeDigits (v : Nat) : List Nat := digits 2 (v / 60000) ++ digits 2 (v % 60000 / 1000) ++ digits 3 (v % 1000)

/-- The digits of a field of an entry; none when the field is absent (R174). -/
def Standing.digits (x : Standing) : Field → Option (List Nat)
  | .place => some (Machine.digits 2 x.place)
  | .station => some (Machine.digits 2 x.station.val)
  | .lap => some (Machine.digits 2 x.lap)
  | .elapsed => x.elapsed.map timeDigits
  | .gapT => x.gapT.map timeDigits
  | .gapD => x.gapD.map (Machine.digits 7)
  | .delta => x.delta.map (fun d => Machine.digits 7 d.natAbs)

/-- The sign of a field: negative only for DELTA below 0 (R176). -/
def Standing.negative (x : Standing) : Field → Bool
  | .delta =>
    match x.delta with
    | some d => decide (d < 0)
    | none => false
  | .place => false
  | .station => false
  | .lap => false
  | .elapsed => false
  | .gapT => false
  | .gapD => false

/-! ## The formatting state -/

/-- The formatting state of one READ LINE (R177); `done` says that formatting has ended, and the output line stands in
order. -/
structure Fmt where
  fill : Byte
  float : Option Byte
  significant : Bool
  negative : Bool
  absent : Bool
  source : List Nat
  cursor : Nat
  line : List Byte
  short : Bool
  trunc : Bool
  done : Bool
  deriving DecidableEq, Repr

/-- The starting values (R177). -/
def Fmt.start : Fmt :=
  { fill := 0x20#8, float := none, significant := false, negative := false, absent := true, source := [], cursor := 0,
    line := [], short := false, trunc := false, done := false }

/-- One emission: a character at the end of the line, or TRUNC and the end when the line holds 24 (R185). -/
def Fmt.emit (x : Fmt) (c : Byte) : Fmt :=
  if x.done then x
  else if 24 ≤ x.line.length then { x with trunc := true, done := true }
  else { x with line := x.line ++ [c] }

/-- The character of a digit. -/
def digitChar (d : Nat) : Byte := byteOf (0x30 + d)

/-- The float character, if one is defined (R180). -/
def Fmt.emitFloat (x : Fmt) : Fmt :=
  match x.float with
  | some c => x.emit c
  | none => x

/-- Significance turns on and the float character is emitted; nothing when it is on already (R180). -/
def Fmt.raise (x : Fmt) : Fmt := if x.significant then x else { x with significant := true }.emitFloat

/-- What a digit step does with a digit it has taken. -/
def Fmt.zsDigit (x : Fmt) (d : Nat) : Fmt :=
  if x.significant then x.emit (digitChar d)
  else if d ≠ 0 then x.raise.emit (digitChar d)
  else x.emit x.fill

/-- A digit step over so many digits: each digit taken moves the cursor on; running out sets SHORT and ends formatting
(R180, R181). -/
def Fmt.takeDigits (use : Fmt → Nat → Fmt) : Nat → Fmt → Fmt
  | 0, x => x
  | n + 1, x =>
    if x.done then x
    else
      match x.source[x.cursor]? with
      | none => { x with short := true, done := true }
      | some d => Fmt.takeDigits use n (use { x with cursor := x.cursor + 1 } d)

/-- SEL: the field's digits, sign and absent flag; significance off; fill and float as they stand (R179). -/
def Fmt.select (x : Fmt) (entry : Standing) (f : Field) : Fmt :=
  { x with
    source := (entry.digits f).getD [], cursor := 0, negative := entry.negative f, absent := (entry.digits f).isNone,
    significant := false }

/-- The selected field is present and all its digits are 0 (R176). -/
def Fmt.zero (x : Fmt) : Bool := !x.absent && x.source.all (fun d => d == 0)

/-- How many steps a step makes the pointer pass over (R184). -/
def Fmt.jump (x : Fmt) : Step → Nat
  | .jz n => if x.zero then n else 0
  | .ja n => if x.absent then n else 0
  | .sel _ => 0 | .zs _ => 0 | .cp _ => 0 | .sk _ => 0 | .lit _ => 0 | .lits _ => 0 | .minus _ => 0 | .plus _ => 0
  | .fill _ => 0 | .float _ => 0 | .fsign => 0 | .sig => 0 | .stop => 0

/-- One step taken, but for where the pointer passes next (R179 to R184). -/
def Fmt.step (entry : Standing) (x : Fmt) : Step → Fmt
  | .sel f => x.select entry f
  | .zs n => Fmt.takeDigits Fmt.zsDigit n x
  | .cp n => Fmt.takeDigits (fun y d => y.emit (digitChar d)) n x.raise
  | .sk n => Fmt.takeDigits (fun y _ => y) n x
  | .lit c => x.emit c
  | .lits c => x.emit (if x.significant then c else x.fill)
  | .minus c => x.emit (if x.negative then c else x.fill)
  | .plus c => x.emit (if x.negative then x.fill else c)
  | .fill c => { x with fill := c }
  | .float c => { x with float := some c }
  | .fsign => { x with float := some (if x.negative then 0x2D#8 else 0x2B#8) }
  | .sig => { x with significant := true }
  | .jz _ => x
  | .ja _ => x
  | .stop => { x with done := true }

/-- The steps from the pointer on, with so many of them to pass over (R178, R184). -/
def Fmt.runFrom (entry : Standing) : List Step → Nat → Fmt → Fmt
  | [], _, x => x
  | _ :: rest, skip + 1, x => Fmt.runFrom entry rest skip x
  | p :: rest, 0, x => if x.done then x else Fmt.runFrom entry rest (x.jump p) (x.step entry p)

/-- A pattern run on one entry from a fresh formatting state (R177, R178). -/
def runPattern (entry : Standing) (pattern : List Step) : Fmt := Fmt.runFrom entry pattern 0 Fmt.start

end Sys2Proof.Machine
end

