-- ==== Sys2Proof/Machine/Motion.lean ====
section
/-! DEFINITION. The Motion Unit's arithmetic: extrapolation (R116 to R121), blending (R122 to R124), and the presentation of
every car of a race at one evaluation time (R125 to R128). -/

namespace Sys2Proof.Machine

/-- What extrapolation reads besides the record: the course length L and the laps of the held rule, and the horizon H. -/
structure Track where
  length : Nat
  laps : Nat
  horizon : Nat
  deriving DecidableEq, Repr

/-- The track of the held rule (R89, R108). -/
def State.track (s : State) : Track := { length := s.courseLength, laps := s.laps, horizon := s.store.horizon }

/-- The finish distance, laps × L (R89). -/
def Track.finish (k : Track) : Nat := k.laps * k.length

/-- Whether a record carries FINISHED. -/
def CarRecord.finished (c : CarRecord) : Bool := c.finish.isSome

/-- A distance held between 0 and the finish distance minus 1, or at the finish distance for a finished car (R120). -/
def Track.bound (k : Track) (finished : Bool) (d : Int) : Nat :=
  if finished then k.finish else (clampInt 0 ((k.finish : Int) - 1) d).toNat

/-- The distance D_r of a record at its record time (R116). -/
def Track.recordDistance (k : Track) (c : CarRecord) : Nat :=
  if c.finished then k.finish
  else min (min c.lap.toNat k.laps * k.length + min c.position.toNat (k.length - 1)) (k.finish - 1)

/-- The span of an extrapolation before the horizon: never below 0 (R117). -/
def rawSpan (c : CarRecord) (t : Time) : Nat := (tdiff t c.recordTime).toNat

/-- The horizon capped the span (R117). -/
def Track.stale (k : Track) (c : CarRecord) (t : Time) : Bool := decide (k.horizon < rawSpan c t)

/-- v and a are both non-zero and of opposite signs (R118). -/
def CarRecord.braking (c : CarRecord) : Bool :=
  (decide (0 < c.speed.toInt) && decide (c.accel.toInt < 0)) || (decide (c.speed.toInt < 0) && decide (0 < c.accel.toInt))

/-- The halt time t_stop in µs (R118). -/
def CarRecord.haltTime (c : CarRecord) : Nat := c.speed.toInt.natAbs * 1000000 / c.accel.toInt.natAbs

/-- The car is halted at this evaluation (R118). -/
def Track.halted (k : Track) (c : CarRecord) (t : Time) : Bool :=
  c.braking && decide (c.haltTime < min (rawSpan c t) k.horizon)

/-- The span Δt as capped by the horizon and by the halt (R117, R118). -/
def Track.span (k : Track) (c : CarRecord) (t : Time) : Nat :=
  if k.halted c t then c.haltTime else min (rawSpan c t) k.horizon

/-- The distance travelled Δp over a span, rounded once, to the nearest, halves away from zero (R119). -/
def travelled (v a : Int) (span : Nat) : Int :=
  divNearest (2 * v * span * 1000000 + a * (span * span : Nat)) 2000000000000

/-- The extrapolated distance D of a record at t (R120). -/
def Track.distance (k : Track) (c : CarRecord) (t : Time) : Nat :=
  k.bound c.finished (k.recordDistance c + travelled c.speed.toInt c.accel.toInt (k.span c t))

/-- The extrapolated speed v' of a record at t (R121). -/
def Track.speed (k : Track) (c : CarRecord) (t : Time) : Int :=
  if k.halted c t then 0
  else clampInt (-32767) 32767 (c.speed.toInt + Int.tdiv (c.accel.toInt * k.span c t) 1000000)

/-! ## Blending -/

/-- What is left of the blend time at t (R123). -/
def blendLeft (blend : Nat) (blendStart t : Time) : Nat := blend - (tdiff t blendStart).toNat

/-- The part of a residual still carried at t, rounded toward zero; not formed with B = 0 (R123). -/
def blendTerm (blend : Nat) (e : Int) (blendStart t : Time) : Int :=
  if blend = 0 then 0 else Int.tdiv (e * blendLeft blend blendStart t) blend

/-- A peer's presented distance at t from a record, its residual and its blend start time (R123). -/
def Track.blended (k : Track) (blend : Nat) (c : CarRecord) (e : Int) (blendStart t : Time) : Nat :=
  k.bound c.finished (k.distance c t + blendTerm blend e blendStart t)

/-- A peer's stored record of the race: the own tag is not 0 and the record's tag equals it (R126). -/
def State.raceRecord (s : State) (st : Station) : Option CarRecord :=
  match (s.table.at st).car with
  | none => none
  | some (tag, c) => if s.session.tag ≠ 0 ∧ tag = s.session.tag then some c else none

/-- The held distance in force for a starter (R127). -/
def State.heldDistance (s : State) (st : Station) : Option Nat :=
  match s.standings.at st with
  | none => none
  | some r => r.heldAt

/-- The new residual of a car apply (R122). -/
def State.newResidual (s : State) (st : Station) (tag : Byte) (c : CarRecord) (ta : Time) : Int :=
  let entry := s.table.at st
  match s.raceRecord st with
  | none => 0
  | some old =>
    if tag ≠ s.session.tag ∨ c.respawn = true ∨ s.store.blend = 0 ∨ (s.heldDistance st).isSome = true then 0
    else
      let e : Int := (s.track.blended s.store.blend old entry.residual entry.blendStart ta : Int) - s.track.distance c ta
      if (s.store.snap : Int) < e.natAbs then 0 else e

/-! ## Presentation -/

/-- A car as presented at one evaluation time (R128, R130). -/
structure Presented where
  distance : Nat
  speed : Int
  lateral : Byte
  stale : Bool
  inPit : Bool
  offTrack : Bool
  finished : Bool
  noRecord : Bool
  deriving DecidableEq, Repr

/-- A record presented by extrapolation alone (R125, R126). -/
def Track.plain (k : Track) (c : CarRecord) (t : Time) (noRecord : Bool) : Presented :=
  { distance := k.distance c t, speed := k.speed c t, lateral := c.lateral, stale := k.stale c t, inPit := c.inPit,
    offTrack := c.offTrack, finished := c.finished, noRecord := noRecord }

/-- The starting record of the race (R126). -/
def State.grid (s : State) : CarRecord := gridRecord (s.session.agreed.getD 0)

/-- A peer's stored lateral offset and flags at its held distance: STALE, v' = 0 (R127; DEDUCED, assumption 17). -/
def heldAt (d : Nat) (record : Option CarRecord) : Presented :=
  match record with
  | some c =>
    { distance := d, speed := 0, lateral := c.lateral, stale := true, inPit := c.inPit, offTrack := c.offTrack,
      finished := c.finished, noRecord := false }
  | none =>
    { distance := d, speed := 0, lateral := 0, stale := true, inPit := false, offTrack := false, finished := false,
      noRecord := false }

/-- A peer as presented at t from its record of the race with its residual (R123), or from the starting record (R126). -/
def State.presentRecord (s : State) (st : Station) (t : Time) : Presented :=
  match s.raceRecord st with
  | some c =>
    { s.track.plain c t false with
      distance := s.track.blended s.store.blend c (s.table.at st).residual (s.table.at st).blendStart t }
  | none => s.track.plain s.grid t true

/-- A peer as presented at t: at its held distance where one is in force (R127), else from its record (R123, R126). -/
def State.presentPeer (s : State) (st : Station) (t : Time) : Presented :=
  match s.heldDistance st with
  | some d => heldAt d (s.raceRecord st)
  | none => s.presentRecord st t

/-- The own car as presented at t from one copy of the own record, by extrapolation alone (R125; assumption 20 for an own
car without a copy). -/
def State.presentOwn (s : State) (copy : Option CarRecord) (t : Time) : Presented :=
  match copy with
  | some c => s.track.plain c t false
  | none => s.track.plain s.grid t true

/-- A car of the race as presented at t, the own car from this copy of the own record (R128). -/
def State.present (s : State) (copy : Option CarRecord) (st : Station) (t : Time) : Presented :=
  if st = s.own then s.presentOwn copy t else s.presentPeer st t

/-- The evaluation time of the host's reads: the view time V while frozen, else C (R128). -/
def State.viewTime (s : State) : Time :=
  match s.table.freeze with
  | some f => f.view
  | none => s.now

/-- The own copy of the host's reads: the frozen copy while frozen, else the live copy (R128). -/
def State.viewCopy (s : State) : Option CarRecord :=
  match s.table.freeze with
  | some _ => s.motion.frozen
  | none => s.motion.live

/-- The lap of a distance: D div L (R120). -/
def State.lapOf (s : State) (d : Nat) : Nat := d / s.courseLength

/-- The position of a distance: D mod L (R120). -/
def State.positionOf (s : State) (d : Nat) : Nat := d % s.courseLength

end Sys2Proof.Machine
end

