-- ==== Sys2Proof/Machine/Operands.lean ====
section
/-! DEFINITION. What the part makes of operands before it stores them: the clamping of CONFIGURE (R192), of SET COURSE
(R194) and of POST CAR (R111 to R114). -/

namespace Sys2Proof.Machine

/-! ## CONFIGURE -/

/-- The frame period: clamped to 2000–8000 µs, then rounded down to a multiple of 500 µs (R192, step 1). -/
def storedPeriod (p : Nat) : Nat := clampNat 2000 8000 p / 500 * 500

/-- The store written by CONFIGURE, in the order of R192; the course table is kept. -/
def storeOf (p : Parameters) (courses : Vector Nat 8) : Store :=
  let window := clampNat 8 32 p.window.toNat
  let on := clampNat 1 window p.on.toNat
  { period := storedPeriod p.period.toNat
    window := window
    on := on
    off := clampNat 0 on p.off.toNat
    dropout := clampNat 1 8 p.dropout.toNat
    horizon := clampNat 50000 1000000 p.horizon.toNat
    blend := clampNat 0 200000 p.blend.toNat
    snap := clampNat 50 5000 p.snap.toNat
    startLead := clampNat 3000000 10000000 p.startLead.toNat
    finishWindow := clampNat 10 120 p.finishWindow.toNat
    dnfTimeout := clampNat 2 30 p.dnfTimeout.toNat
    linkDelay := clampNat 0 50 p.linkDelay.toNat
    slew := clampNat 10 500 p.slew.toNat
    lockBound := clampNat 50 1000 p.lockBound.toNat
    operator := { courses := p.courses, laps := p.laps.extractLsb' 0 4, options := p.options.extractLsb' 0 2 }
    sweepGap := clampNat 250 2000 p.sweepGap.toNat
    contactLength := clampNat 100 1000 p.contactLength.toNat
    contactWidth := clampNat 5 50 p.contactWidth.toNat
    draftLength := clampNat 500 6000 p.draftLength.toNat
    draftWidth := clampNat 2 30 p.draftWidth.toNat
    courses := courses }

/-- Some parameter was changed by clamping or by rounding; ignored mask bits do not count (R192). -/
def parametersClamped (p : Parameters) (c : Store) : Bool :=
  !(c.period == p.period.toNat && c.window == p.window.toNat && c.on == p.on.toNat && c.off == p.off.toNat &&
    c.dropout == p.dropout.toNat && c.horizon == p.horizon.toNat && c.blend == p.blend.toNat &&
    c.snap == p.snap.toNat && c.startLead == p.startLead.toNat && c.finishWindow == p.finishWindow.toNat &&
    c.dnfTimeout == p.dnfTimeout.toNat && c.linkDelay == p.linkDelay.toNat && c.slew == p.slew.toNat &&
    c.lockBound == p.lockBound.toNat && c.sweepGap == p.sweepGap.toNat &&
    c.contactLength == p.contactLength.toNat && c.contactWidth == p.contactWidth.toNat &&
    c.draftLength == p.draftLength.toNat && c.draftWidth == p.draftWidth.toNat)

/-- The 38 parameter bytes as stored, in operand order (R192). -/
def Store.bytes (c : Store) : List Byte :=
  be2 (BitVec.ofNat 16 c.period) ++ [byteOf c.window, byteOf c.on, byteOf c.off, byteOf c.dropout] ++
    be4 (BitVec.ofNat 32 c.horizon) ++ be4 (BitVec.ofNat 32 c.blend) ++ be2 (BitVec.ofNat 16 c.snap) ++
    be4 (BitVec.ofNat 32 c.startLead) ++ [byteOf c.finishWindow, byteOf c.dnfTimeout, byteOf c.linkDelay] ++
    be2 (BitVec.ofNat 16 c.slew) ++ be2 (BitVec.ofNat 16 c.lockBound) ++
    [c.operator.courses, c.operator.laps.setWidth 8, c.operator.options.setWidth 8] ++
    be2 (BitVec.ofNat 16 c.sweepGap) ++ be2 (BitVec.ofNat 16 c.contactLength) ++ [byteOf c.contactWidth] ++
    be2 (BitVec.ofNat 16 c.draftLength) ++ [byteOf c.draftWidth]

/-! ## SET COURSE -/

/-- The length stored for a course: 0 removes it, any other length is clamped to 50,000–8,000,000 tu (R194). -/
def storedLength (n : Nat) : Nat := if n = 0 then 0 else clampNat 50000 8000000 n

/-- The course table with one course's length. -/
def Store.withCourse (c : Store) (i : Nat) (length : Nat) : Store :=
  { c with courses := c.courses.setIfInBounds i length }

/-! ## POST CAR -/

/-- The clamped age in µs: 0 to 20,000 (R111, step 1). -/
def postAge (p : CarPost) : Nat := (clampInt 0 20000 p.age.toInt).toNat

/-- The flag bit FINISHED of a post (R110; 11, "Car body"). -/
def postFinished (p : CarPost) : Bool := p.flags.getLsbD 3

/-- The position after step 2 of R111. -/
def Track.postedPosition (k : Track) (p : CarPost) : Nat := min p.position.toNat (k.length - 1)

/-- The lap after step 3 of R111. -/
def Track.postedLap (k : Track) (p : CarPost) : Nat := min p.lap.toNat k.laps

/-- The distance D formed in step 4 of R111, before its own clamp. -/
def Track.postedRaw (k : Track) (p : CarPost) : Nat := k.postedLap p * k.length + k.postedPosition p

/-- The distance D after step 4 of R111. -/
def Track.postedDistance (k : Track) (p : CarPost) : Nat := min (k.postedRaw p) (k.finish - 1)

/-- The age was changed by step 1 of R111. -/
def ageClamped (p : CarPost) : Bool := (postAge p : Int) != p.age.toInt

/-- The lap or the position was changed by step 2 or 3 of R111. -/
def Track.placeClamped (k : Track) (p : CarPost) : Bool :=
  k.postedPosition p != p.position.toNat || k.postedLap p != p.lap.toNat

/-- What a post does with FINISHED: it is the own finish (R113), it comes after the own finish (R114), or it is a plain
post. -/
inductive PostKind where
  | finish | after | plain
  deriving DecidableEq, Repr

/-- The kind of a post, by the live copy and the phase (R113, R114). -/
def State.postKind (s : State) (p : CarPost) : PostKind :=
  match s.motion.live with
  | some c => if c.finished then .after else if postFinished p && s.session.phase == .racing then .finish else .plain
  | none => if postFinished p && s.session.phase == .racing then .finish else .plain

/-- C less the clamped age (R112). -/
def State.postTime (s : State) (p : CarPost) : Time := s.now - BitVec.ofNat 32 (postAge p)

/-- In RACING and FINISHED a record time before the agreed start is taken as the agreed start (R112). -/
def State.timeClamped (s : State) (p : CarPost) : Bool :=
  s.session.phase.inRace && decide (tdiff (s.postTime p) (s.session.agreed.getD 0) < 0)

/-- The record time of a post (R112). -/
def State.recordTimeOf (s : State) (p : CarPost) : Time :=
  if s.timeClamped p then s.session.agreed.getD 0 else s.postTime p

/-- The finish time already stored in the live copy. -/
def State.liveFinish (s : State) : Option Time :=
  match s.motion.live with
  | some c => c.finish
  | none => none

/-- The record a post stores (R110 to R114): at the own finish and after it the car stands at the finish distance, else at
the clamped D. -/
def State.postedRecord (s : State) (p : CarPost) : CarRecord :=
  let k := s.track
  let d := k.postedDistance p
  let kind := s.postKind p
  { lap := byteOf (if kind = .plain then d / k.length else k.laps)
    position := BitVec.ofNat 24 (if kind = .plain then d % k.length else 0)
    speed := p.speed, accel := p.accel, lateral := p.lateral
    inPit := p.flags.getLsbD 0, offTrack := p.flags.getLsbD 1, respawn := p.flags.getLsbD 2
    recordTime := s.recordTimeOf p
    finish := match kind with
      | .finish => some (s.recordTimeOf p)
      | .after => s.liveFinish
      | .plain => none }

/-- The clamped mark of the answer: an operand changed by steps 1 to 3 of R111, the record time changed by R112, and for a
plain post step 4 or a FINISHED taken as clear in ARMED (R110, R113).  DEDUCED (assumption 18): at the own finish and after
it step 4 sets no mark. -/
def State.postClamped (s : State) (p : CarPost) : Bool :=
  ageClamped p || s.timeClamped p || s.track.placeClamped p ||
    match s.postKind p with
    | .finish => false
    | .after => false
    | .plain => s.track.postedDistance p != s.track.postedRaw p || (postFinished p && s.session.phase == .armed)

end Sys2Proof.Machine
end

