-- ==== Sys2Proof/Machine/Flags.lean ====
section
/-! DEFINITION. The event latch with its detail stations, its since-snapshot marks and the attention line
(R195 to R198). -/

namespace Sys2Proof.Machine

/-- The event bit of a kind (11, "Event bits"). -/
def Event.bit : Event → Nat
  | .peerUp => 0 | .peerLost => 1 | .peerBack => 2 | .chatter => 3 | .stationClash => 4 | .clockState => 5
  | .ruleChange => 6 | .cleardown => 7 | .armed => 8 | .aborted => 9 | .started => 10 | .contact => 11
  | .draftChange => 12 | .peerFinished => 13 | .raceOver => 14 | .freezeExpired => 15 | .rxqHigh => 16
  | .rxqOverrun => 17 | .truncated => 18 | .frameDropped => 19

/-- The one-member set of a kind. -/
def Event.mask (e : Event) : BitVec 20 := 1#20 <<< e.bit

/-- The place of a kind's detail station in the answer of READ EVENTS, for the nine kinds that carry one (R195). -/
def Event.detail : Event → Option (Fin 9)
  | .peerUp => some 0 | .peerLost => some 1 | .peerBack => some 2 | .chatter => some 3 | .stationClash => some 4
  | .contact => some 5 | .draftChange => some 6 | .peerFinished => some 7 | .rxqOverrun => some 8
  | .clockState => none | .ruleChange => none | .cleardown => none | .armed => none | .aborted => none
  | .started => none | .raceOver => none | .freezeExpired => none | .rxqHigh => none | .truncated => none
  | .frameDropped => none

/-- Whether the Host Port is in RESPONSE for a READ EVENTS (R195). -/
def ReadEvents.open : ReadEvents → Bool
  | .none => false
  | .sending _ => true
  | .sent => true

/-- One occurrence: the flag is set, the detail takes the station named, and the since-snapshot mark is set during the
response of a READ EVENTS (R195). -/
def Port.occur (p : Port) (e : Event) (station : Option Station) : Port :=
  { p with
    latch := p.latch ||| e.mask
    details := match e.detail, station with
      | some i, some st => p.details.set i.val st
      | _, _ => p.details
    marks := if p.readEvents.open then p.marks ||| e.mask else p.marks }

/-- An occurrence of a kind without a detail station latches in the Host Port. -/
def State.signal (s : State) (e : Event) : State := s.setPort (s.port.occur e none)

/-- An occurrence of a kind with a detail station latches in the Host Port. -/
def State.signalAt (s : State) (e : Event) (st : Station) : State := s.setPort (s.port.occur e (some st))

/-- Whether a kind is latched. -/
def Port.latched (p : Port) (e : Event) : Bool := p.latch.getLsbD e.bit

/-- The attention line: asserted exactly when some latched kind is also in the event mask; deasserted while RESET is low
(R197).  It is computed, since the rule fixes it from the latch, the mask and the reset line (assumption 23). -/
def State.attention (s : State) : Bool := !s.inReset && (s.port.latch &&& s.port.mask != 0)

/-- The last response byte of READ EVENTS has been clocked out: each kind of the snapshot is cleared from the latch,
unless its since-snapshot mark is set (R198). -/
def Port.endReadEvents (p : Port) : Port :=
  match p.readEvents with
  | .sending snapshot => { p with latch := p.latch &&& ~~~(snapshot &&& ~~~p.marks), readEvents := .sent }
  | .none => p
  | .sent => p

end Sys2Proof.Machine
end

