-- ==== Sys2Proof/Machine/Lobby.lean ====
section
/-! DEFINITION. The Session Controller's lobby work: the effective offer (R80), the lobby set (R81), the resolved rule
(R83 to R86), and the first two steps of a re-evaluation (R82). -/

namespace Sys2Proof.Machine

/-- The effective offer from the host offer, the operator masks and the installed courses (R80). -/
def effectiveOffer (host : Offer) (store : Store) : Offer :=
  { courses := host.courses &&& store.operator.courses &&& store.installed,
    laps := host.laps &&& store.operator.laps,
    options := host.options &&& store.operator.options }

/-- The effective offer is recomputed whenever one of its sources changes (R80). -/
def State.recomputeOffer (s : State) : State :=
  s.setSession { s.session with effective := effectiveOffer s.session.hostOffer s.store }

/-- Whether a station belongs to the lobby set: the own station, and each live peer whose stored beacon has phase LOBBY or
PROPOSING and session tag 0 (R81). -/
def State.gathers (s : State) (st : Station) : Bool :=
  st == s.own ||
    (s.live st &&
      match (s.table.at st).beacon with
      | none => false
      | some (tag, b) => tag == 0 && b.phase != .armed)

/-- Step one of a re-evaluation: the lobby set is recomputed (R81, R82). -/
def State.recomputeLobby (s : State) : State :=
  s.setSession { s.session with lobbySet := setOf s.gathers }

/-- The offer of a member of the lobby set: the own effective offer, or the masks carried in the stored beacon (R83;
assumption 20 for a member without one). -/
def State.offerOf (s : State) (st : Station) : Offer :=
  if st = s.own then s.session.effective
  else
    match (s.table.at st).beacon with
    | none => Offer.full
    | some (_, b) => b.offer

/-- The intersection of two offers, mask by mask (R83). -/
def Offer.meet (a b : Offer) : Offer :=
  { courses := a.courses &&& b.courses, laps := a.laps &&& b.laps, options := a.options &&& b.options }

/-- The highest course of a course mask (R83). -/
def highestCourse (m : BitVec 8) : BitVec 3 :=
  courseNumbers.foldl (fun top i => if m.getLsbD i.toNat then i else top) 0#3

/-- The highest lap code of a lap mask (R83). -/
def highestLapCode (m : BitVec 4) : BitVec 2 :=
  [0#2, 1#2, 2#2, 3#2].foldl (fun top i => if m.getLsbD i.toNat then i else top) 0#2

/-- The rule of common masks: NONE when no course or no lap code is common, else the highest of each with the common
options, which may be empty (R83). -/
def ruleOf (common : Offer) : Option Rule :=
  if common.courses = 0 ∨ common.laps = 0 then none
  else some { course := highestCourse common.courses, lapCode := highestLapCode common.laps, options := common.options }

/-- The common masks of the lobby set's members (R83). -/
def State.commonOffer (s : State) : Offer :=
  (members s.session.lobbySet).foldl (fun acc st => acc.meet (s.offerOf st)) Offer.full

/-- The number of members of a set. -/
def size (m : StationSet) : Nat := (members m).length

/-- Step two of a re-evaluation in LOBBY: the rule is resolved over the lobby set; RULE_CHANGE latches when it changes
(R85), and CLEARDOWN when it is NONE with 2 or more members gathered while the cleardown mark is clear (R86). -/
def State.resolveRule (s : State) : State :=
  let rule := ruleOf s.commonOffer
  let down := rule.isNone && decide (2 ≤ size s.session.lobbySet)
  let s1 := if rule = s.session.rule then s else s.signal .ruleChange
  let s2 := if down && !s.session.cleardownMark then s1.signal .cleardown else s1
  s2.setSession { s2.session with rule := rule, cleardownMark := down }

/-- The agreement state empty: no roster, no proposals, no agreed start, session tag 0 (R99, R106). -/
def Session.dissolve (x : Session) : Session :=
  { x with roster := none, proposals := Vector.replicate 16 none, agreed := none, tag := 0, held := false,
           cleardownMark := false }

/-- The race-end timers stopped (R152). -/
def Session.stopTimers (x : Session) : Session := { x with earliest := none, deadline := none, limit := none }

/-- An abort by a failing Condition B or by CLEAR READY (R99), with the re-evaluation its change of phase starts: in LOBBY
with the abort flag set, so that Condition A is not evaluated. -/
def State.abort (s : State) (cause : AbortCause) (station : Option Station) : State :=
  let x := { s.session.dissolve with
    phase := .lobby, abortHold := some Config.abortHold, lastAbort := some (cause, station) }
  let s1 := (s.setSession x).setMotion { live := none, frozen := none }
  (s1.signal .aborted).recomputeLobby.resolveRule

end Sys2Proof.Machine
end

