-- ==== Sys2Proof/Machine/Ranking.lean ====
section
/-! DEFINITION. The standings list: its four groups, its order, and the entries with their comparison values
(R161, R162, R167, R168). -/

namespace Sys2Proof.Machine

/-- One starter as the list sees it: its record and the distance of R167. -/
structure Ranked where
  station : Station
  status : RaceStatus
  finish : Option Time
  distance : Nat
  deriving DecidableEq, Repr

/-- The distance of a starter in a list evaluated at t with this copy of the own record (R161, R167). -/
def State.listDistance (s : State) (copy : Option CarRecord) (st : Station) (r : Starter) (t : Time) : Nat :=
  if r.status = .finished then s.track.finish else (s.present copy st t).distance

/-- Every starter, in rising station order, with its distance. -/
def State.ranked (s : State) (copy : Option CarRecord) (t : Time) : List Ranked :=
  stations.filterMap fun st =>
    (s.standings.at st).map fun r =>
      { station := st, status := r.status, finish := r.finish, distance := s.listDistance copy st r t }

/-- Group 1: finish time ascending, equal times by lower station number (R161). -/
def finishedBefore (a b : Ranked) : Bool :=
  let d := tdiff (b.finish.getD 0) (a.finish.getD 0)
  decide (0 < d) || (decide (a.finish.getD 0 = b.finish.getD 0) && decide (a.station ≤ b.station))

/-- Group 2: distance descending, equal distances by lower station number (R161). -/
def furtherThan (a b : Ranked) : Bool :=
  decide (b.distance < a.distance) || (decide (a.distance = b.distance) && decide (a.station ≤ b.station))

/-- Put one starter in its place in an ordered list. -/
def insertBy (before : Ranked → Ranked → Bool) (x : Ranked) : List Ranked → List Ranked
  | [] => [x]
  | y :: ys => if before x y then x :: y :: ys else y :: insertBy before x ys

/-- Order a list. -/
def orderBy (before : Ranked → Ranked → Bool) : List Ranked → List Ranked
  | [] => []
  | x :: xs => insertBy before x (orderBy before xs)

/-- The statuses of group 2 (R161). -/
def RaceStatus.stillRunning : RaceStatus → Bool
  | .running => true
  | .lost => true
  | .unfinished => true
  | .finished => false
  | .dnf => false
  | .withdrawn => false

/-- The four groups in order; DNF and WITHDRAWN keep rising station order (R161). -/
def arrange (xs : List Ranked) : List Ranked :=
  orderBy finishedBefore (xs.filter (fun x => x.status == .finished)) ++
    orderBy furtherThan (xs.filter (fun x => x.status.stillRunning)) ++
    xs.filter (fun x => x.status == .dnf) ++ xs.filter (fun x => x.status == .withdrawn)

/-- A span in µs in ms, truncated; a negative span is taken as 0 (R167). -/
def spanMs (d : Int) : Nat := d.toNat / 1000

/-- The elapsed time of an entry in ms, absent for DNF and WITHDRAWN; for UNFINISHED up to the race-over instant (R167). -/
def State.elapsedOf (s : State) (x : Ranked) (t : Time) : Option Nat :=
  let start := s.session.agreed.getD 0
  match x.status with
  | .finished => some (spanMs (tdiff (x.finish.getD 0) start))
  | .running => some (spanMs (tdiff t start))
  | .lost => some (spanMs (tdiff t start))
  | .unfinished => some (spanMs (tdiff (s.standings.overAt.getD t) start))
  | .dnf => none
  | .withdrawn => none

/-- GAPT: both this entry and place 1 FINISHED, the difference of their finish times in ms (R168). -/
def gapTOf (first x : Ranked) : Option Nat :=
  if x.status = .finished ∧ first.status = .finished then
    some (spanMs (tdiff (x.finish.getD 0) (first.finish.getD 0)))
  else none

/-- GAPD: metres behind place 1, for RUNNING, LOST and UNFINISHED (R168). -/
def gapDOf (first x : Ranked) : Option Nat :=
  if x.status.stillRunning then some ((first.distance - x.distance) / 100) else none

/-- DELTA: the own distance less this distance in metres, rounded toward zero, absent for DNF and WITHDRAWN (R168). -/
def deltaOf (ownDistance : Nat) (x : Ranked) : Option Int :=
  if x.status = .dnf ∨ x.status = .withdrawn then none
  else some (Int.tdiv ((ownDistance : Int) - x.distance) 100)

/-- One entry of the list (R167, R168). -/
def State.standingOf (s : State) (first : Ranked) (ownDistance place : Nat) (t : Time) (x : Ranked) : Standing :=
  { place := place, station := x.station, status := x.status, distance := x.distance,
    lap := if x.status = .finished then s.laps else s.lapOf x.distance,
    elapsed := s.elapsedOf x t,
    finish := if x.status = .finished then some (x.finish.getD 0) else none,
    gapT := gapTOf first x, gapD := gapDOf first x, delta := deltaOf ownDistance x }

/-- Entries with their places, from this place upward. -/
def State.standingsFrom (s : State) (first : Ranked) (ownDistance : Nat) (t : Time) :
    Nat → List Ranked → List Standing
  | _, [] => []
  | place, x :: xs =>
    s.standingOf first ownDistance place t x :: s.standingsFrom first ownDistance t (place + 1) xs

/-- The distance of the own entry in a list (R168). -/
def ownDistanceIn (own : Station) (xs : List Ranked) : Nat :=
  match xs.find? (fun x => x.station == own) with
  | some x => x.distance
  | none => 0

/-- The standings list at evaluation time t with this copy of the own record (R161). -/
def State.formList (s : State) (copy : Option CarRecord) (t : Time) : List Standing :=
  match arrange (s.ranked copy t) with
  | [] => []
  | first :: rest =>
    s.standingsFrom first (ownDistanceIn s.own (first :: rest)) t 1 (first :: rest)

/-- The list a read takes: formed at the evaluation time in RACING and FINISHED, the final list in RESULTS, else empty
(R162, R169). -/
def State.standingsList (s : State) : List Standing :=
  match s.session.phase with
  | .racing => s.formList s.viewCopy s.viewTime
  | .finished => s.formList s.viewCopy s.viewTime
  | .results => s.standings.final.getD []
  | .offline => []
  | .lobby => []
  | .proposing => []
  | .armed => []

end Sys2Proof.Machine
end

