-- ==== Sys2Proof/Machine/Race.lean ====
section
/-! DEFINITION. The race from the start instant to race over: the starter records and their statuses (R153 to R160), the
race-end timers (R163), race over (R164, R165), and the clearing of the Proximity Monitor (R149). -/

namespace Sys2Proof.Machine

/-! ## Proximity clearing and sweep timer -/

/-- Every proximity state CLEAR, every last closing speed 0, the sweep position station 0; the enable flag is kept
(R149). -/
def Prox.cleared (p : Prox) : Prox :=
  { p with position := 0, timer := none, peers := Vector.replicate 16 ProxEntry.clear }

/-- The sweep ceases to run: the timer stops and everything else is held (R135). -/
def Prox.stopped (p : Prox) : Prox := { p with timer := none }

/-- The sweep begins to run if the enable flag is set: the first expiry comes one sweep gap later (R135). -/
def Prox.started (p : Prox) (gap : Nat) : Prox := { p with timer := if p.enabled then some gap else p.timer }

/-! ## Starter records -/

/-- The record a starter is given at the start instant: RUNNING, except a peer whose presence is LOST (R153). -/
def State.newStarter (s : State) (st : Station) : Starter :=
  if st ≠ s.own ∧ (s.link.at st).presence = .lost then
    { status := .lost, finish := none, heldAt := some (s.presentRecord st s.now).distance }
  else { status := .running, finish := none, heldAt := none }

/-- Replace a starter's record. -/
def State.putStarter (s : State) (st : Station) (r : Starter) : State := s.setStandings (s.standings.put st r)

/-- The statuses from which a starter may still move: RUNNING and LOST (R154). -/
def RaceStatus.open : RaceStatus → Bool
  | .running => true
  | .lost => true
  | .finished => false
  | .dnf => false
  | .withdrawn => false
  | .unfinished => false

/-- UNFINISHED for a starter still RUNNING or LOST at race over (R165). -/
def Starter.close (r : Starter) : Starter := if r.status.open then { r with status := .unfinished } else r

/-- The all-done condition: every starter is FINISHED, DNF or WITHDRAWN (R163). -/
def State.allDone (s : State) : Bool :=
  stations.all fun st =>
    match s.standings.at st with
    | none => true
    | some r => !r.status.stillRunning

/-! ## Race over -/

/-- Race over (R165), with the re-evaluation of its change of phase, which recomputes the lobby set alone (R82).  DESIGN
CHOICE (assumption 25): the earliest finish time is kept. -/
def State.raceOver (s : State) (cause : EndCause) : State :=
  let s1 := s.setStandings { s.standings with
    starters := mapAll (Option.map Starter.close) s.standings.starters, overAt := some s.now, cause := some cause }
  let s2 := s1.setStandings { s1.standings with final := some (s1.formList s1.motion.live s.now) }
  let s3 := s2.setSession { s2.session with phase := .results, deadline := none, limit := none }
  ((s3.setProx s3.prox.stopped).signal .raceOver).recomputeLobby

/-- Whether C reaches or passes an instant that may not be set. -/
def State.passed (s : State) : Option Time → Bool
  | none => false
  | some t => reached s.now t

/-- The end cause at an occasion: the first of the three conditions that holds, in the order of R164 (assumption 15). -/
def State.endCause (s : State) : Option EndCause :=
  if s.allDone then some .allDone
  else if s.passed s.session.deadline then some .finishWindow
  else if s.passed s.session.limit then some .raceLimit
  else none

/-- A check of the race-end conditions in RACING or FINISHED (R164). -/
def State.checkRaceEnd (s : State) : State :=
  if s.session.phase.inRace then
    match s.endCause with
    | some c => s.raceOver c
    | none => s
  else s

/-- The judgement that a change of status starts: the all-done condition (R163). -/
def State.statusChanged (s : State) : State :=
  if s.session.phase.inRace && s.allDone then s.raceOver .allDone else s

/-! ## Finish claims -/

/-- The five conditions of R155. -/
def State.claimHolds (s : State) (st : Station) (finish : Time) (tag : Byte) : Bool :=
  s.session.phase.inRace &&
    (match s.standings.at st with
      | none => false
      | some r => r.status.open) &&
    tag == s.session.tag && reached finish (s.session.agreed.getD 0)

/-- A finish window of seconds, in µs. -/
def seconds (n : Nat) : Time := BitVec.ofNat 32 (n * 1000000)

/-- The earliest finish time held and the finish deadline drawn from it (R163). -/
def Session.noteFinish (x : Session) (finish : Time) (window : Nat) : Session :=
  let earlier := match x.earliest with
    | none => true
    | some e => decide (0 < tdiff e finish)
  if earlier then { x with earliest := some finish, deadline := some (finish + seconds window) } else x

/-- A finish claim offered to the Standings Unit (R155, R156): when it is taken the starter is FINISHED, its held distance
is released, PEER_FINISHED latches for a peer, and the Session Controller is told (R163). -/
def State.offerClaim (s : State) (st : Station) (finish : Time) (tag : Byte) : State :=
  if s.claimHolds st finish tag then
    let s1 := s.putStarter st { status := .finished, finish := some finish, heldAt := none }
    let s2 := if st = s.own then s1 else s1.signalAt .peerFinished st
    (s2.setSession (s2.session.noteFinish finish s.store.finishWindow)).statusChanged
  else s

/-! ## Lost cars, DNF and withdrawal -/

/-- The Link Monitor moved a starter from FADING to LOST: a RUNNING starter becomes LOST and its distance is held (R157). -/
def State.starterLost (s : State) (st : Station) : State :=
  match s.standings.at st with
  | some r =>
    if s.session.phase.inRace ∧ r.status = .running then
      s.putStarter st { r with status := .lost, heldAt := some (s.presentRecord st s.now).distance }
    else s
  | none => s

/-- The Link Monitor moved a starter from LOST to PRESENT: a LOST starter becomes RUNNING and its distance stays held
(R158). -/
def State.starterBack (s : State) (st : Station) : State :=
  match s.standings.at st with
  | some r =>
    if s.session.phase.inRace ∧ r.status = .lost then s.putStarter st { r with status := .running } else s
  | none => s

/-- The DNF timeout of the store, in µs (R159). -/
def State.dnfTimeout (s : State) : Int := s.store.dnfTimeout * 1000000

/-- The DNF check of one starter: LOST, with the time since its LOST entry at or above the timeout (R159). -/
def State.dnfDue (s : State) (st : Station) : Bool :=
  match s.standings.at st, (s.link.at st).lostAt with
  | some r, some t0 => s.session.phase.inRace && r.status == .lost && decide (s.dnfTimeout ≤ tdiff s.now t0)
  | _, _ => false

/-- The DNF check of one starter at a window expiry (R159). -/
def State.dnfCheckOne (s : State) (st : Station) : State :=
  if s.dnfDue st then
    match s.standings.at st with
    | some r => (s.putStarter st { r with status := .dnf }).statusChanged
    | none => s
  else s

/-- The DNF check of every starter, in rising station order (R159). -/
def State.dnfCheck (s : State) : State := stations.foldl State.dnfCheckOne s

/-- Whether an applied frame withdraws its sender: a beacon, unless it is ARMED with the own session tag, or a car frame
of another session tag (R160). -/
def State.withdraws (s : State) (f : Frame) : Bool :=
  match f.body with
  | .beacon b => !(b.phase == .armed && f.tag == s.session.tag)
  | .car _ => f.tag != s.session.tag

/-- The Standings Unit is told of an apply: a RUNNING or LOST starter that is a peer may be WITHDRAWN (R160), and a
RUNNING starter's held distance is released by its next car record of the race (R127, R158). -/
def State.standingsTold (s : State) (f : Frame) : State :=
  match s.standings.at f.sender with
  | none => s
  | some r =>
    if s.session.phase.inRace && r.status.open && f.sender != s.own then
      if s.withdraws f then
        (s.putStarter f.sender { r with status := .withdrawn, heldAt := none }).statusChanged
      else
        match f.body, r.status with
        | .car _, .running => s.putStarter f.sender { r with heldAt := none }
        | _, _ => s
    else s

/-! ## The start instant -/

/-- Whether the start instant is reached in ARMED (R102). -/
def State.startReached (s : State) : Bool := s.session.phase == .armed && s.passed s.session.agreed

/-- The start instant (R102, R149, R153), with the re-evaluation of its change of phase, which recomputes the lobby set
alone (R82). -/
def State.start (s : State) : State :=
  let roster := s.session.roster.getD 0
  let s1 := s.setStandings
    { Standings.empty with
      starters := buildAll fun st => if member roster st then some (s.newStarter st) else none }
  let s2 := s1.setSession { s1.session with
    phase := .racing, earliest := none, deadline := none, limit := s1.session.agreed.map (· + Config.raceLimit) }
  let s3 := s2.setProx (s2.prox.cleared.started s.store.sweepGap)
  (s3.signal .started).recomputeLobby

end Sys2Proof.Machine
end

