-- ==== Sys2Proof/Machine/Proximity.lean ====
section
/-! DEFINITION. The Proximity Monitor: the sweep (R135 to R137), measuring a peer (R140 to R142) and judging it
(R143 to R148). -/

namespace Sys2Proof.Machine

/-- The sweep runs: phase RACING and the enable flag set (R135). -/
def State.sweepRuns (s : State) : Bool := s.session.phase == .racing && s.prox.enabled

/-- Whether a station is eligible at a sweep step (R137). -/
def State.eligible (s : State) (st : Station) : Bool :=
  st != s.own &&
    (match s.standings.at st with
      | none => false
      | some r => r.status == .running) &&
    (match (s.table.at st).car with
      | none => false
      | some (tag, _) => tag == s.session.tag)

/-- The track gap g from the own position to the peer's, the shorter way around a course of length L (R141). -/
def trackGap (length own peer : Nat) : Int :=
  let r : Int := ((peer : Int) - own) % length
  if (length : Int) < 2 * r then r - length else r

/-- A measurement of one peer: track gap, lateral difference and closing speed (R140 to R142). -/
structure Measure where
  gap : Int
  across : Int
  closing : Int
  deriving DecidableEq, Repr

/-- The peer measured against the own car, both as presented at C (R140, R141, R142). -/
def State.measure (s : State) (st : Station) : Measure :=
  let own := s.presentOwn s.motion.live s.now
  let peer := s.presentPeer st s.now
  { gap := trackGap s.courseLength (s.positionOf own.distance) (s.positionOf peer.distance),
    across := peer.lateral.toInt - own.lateral.toInt,
    closing := clampInt (-32767) 32767 (own.speed - peer.speed) }

/-- A CONTACT window widened by margins along and across the course (R143). -/
def Store.inContact (c : Store) (m : Measure) (along across : Int) : Bool :=
  decide ((m.gap.natAbs : Int) ≤ c.contactLength + along) && decide ((m.across.natAbs : Int) ≤ c.contactWidth + across)

/-- A DRAFT window widened by margins; it looks only ahead (R143). -/
def Store.inDraft (c : Store) (m : Measure) (along across : Int) : Bool :=
  decide (0 < m.gap) && decide (m.gap ≤ c.draftLength + along) &&
    decide ((m.across.natAbs : Int) ≤ c.draftWidth + across)

/-- The options of the held rule; none when no rule is held (R144, R150). -/
def State.heldOptions (s : State) : BitVec 2 :=
  match s.session.held, s.session.rule with
  | true, some r => r.options
  | true, none => 0
  | false, _ => 0

/-- CONTACT is permitted and the measure lies in the CONTACT entry window (R143, R144). -/
def State.entersContact (s : State) (m : Measure) : Bool := contactOn s.heldOptions && s.store.inContact m 0 0

/-- DRAFT is permitted and the measure lies in the DRAFT entry window (R143, R144). -/
def State.entersDraft (s : State) (m : Measure) : Bool := draftOn s.heldOptions && s.store.inDraft m 0 0

/-- A peer's new state at its evaluation (R145 to R147). -/
def State.judgeProx (s : State) (m : Measure) : ProxState → ProxState
  | .clear => if s.entersContact m then .contact else if s.entersDraft m then .draft else .clear
  | .contact =>
    if s.store.inContact m Config.marginLength Config.marginWidth then .contact
    else if s.entersDraft m then .draft
    else .clear
  | .draft =>
    if s.entersContact m then .contact
    else if s.store.inDraft m Config.marginLength Config.marginWidth then .draft
    else .clear

/-- CONTACT latches at an entry of the peer to CONTACT (R148). -/
def State.signalContact (s : State) (st : Station) (before after : ProxState) : State :=
  if before ≠ .contact ∧ after = .contact then s.signalAt .contact st else s

/-- DRAFT_CHANGE latches at each entry to DRAFT and each leaving of it (R148). -/
def State.signalDraft (s : State) (st : Station) (before after : ProxState) : State :=
  if (before == .draft) != (after == .draft) then s.signalAt .draftChange st else s

/-- One peer evaluated: its new state, the closing speed stored at an entry to CONTACT, and its events (R140 to R148). -/
def State.evaluatePeer (s : State) (st : Station) : State :=
  let m := s.measure st
  let old := s.prox.at st
  let state := s.judgeProx m old.state
  let closing := if old.state ≠ .contact ∧ state = .contact then m.closing else old.closing
  let s1 := s.setProx (s.prox.put st { state := state, closing := closing })
  (s1.signalContact st old.state state).signalDraft st old.state state

/-- An ineligible station passed by a step becomes CLEAR; its last closing speed is kept (R136). -/
def State.passIneligible (s : State) (st : Station) : State :=
  let old := s.prox.at st
  (s.setProx (s.prox.put st { old with state := .clear })).signalDraft st old.state .clear

/-- The search of a sweep step from a station, over so many stations: ineligible stations are passed and cleared, and the
first eligible one is evaluated, the sweep position becoming the station after it (R136). -/
def State.search : Nat → Station → State → State
  | 0, _, s => s
  | n + 1, st, s =>
    if s.eligible st then
      let s1 := s.evaluatePeer st
      s1.setProx { s1.prox with position := nextStation st }
    else State.search n (nextStation st) (s.passIneligible st)

/-- One sweep step: the timer starts its next gap, and the search passes at most all sixteen stations (R135, R136). -/
def State.sweep (s : State) : State :=
  State.search 16 s.prox.position (s.setProx { s.prox with timer := some s.store.sweepGap })

end Sys2Proof.Machine
end

