-- ==== Sys2Proof/Machine/Countdown.lean ====
section
/-! DEFINITION. The countdown: Condition A and entry to PROPOSING (R91 to R93), Condition B (R94 to R96), entry to ARMED
(R97), and the re-evaluation whole (R82).  A re-evaluation may change the phase, and each change of phase starts a
re-evaluation of its own; the chain LOBBY, PROPOSING, ARMED, RACING or back to LOBBY ends after a fixed number of them, so
each is written out by its phase. -/

namespace Sys2Proof.Machine

/-- The members of a set other than the own station, rising. -/
def State.others (s : State) (m : StationSet) : List Station := (members m).filter (fun st => st != s.own)

/-- Item 4 of Condition A for one member: its stored beacon shows READY and no ABORT, and carries a roster equal to the
own lobby set and a rule equal to the own resolved rule (R91). -/
def State.memberMatches (s : State) (rule : Rule) (st : Station) : Bool :=
  match (s.table.at st).beacon with
  | none => false
  | some (_, b) => b.ready && !b.abort && b.roster == s.session.lobbySet && b.rule.agrees rule

/-- Condition A, with the premises under which it is evaluated: the ready flag set and the abort flag clear (R91). -/
def State.conditionA (s : State) : Bool :=
  s.session.ready && s.session.abortHold.isNone && s.clock.state == .locked &&
    decide (2 ≤ size s.session.lobbySet) &&
    match s.session.rule with
    | none => false
    | some rule => (s.others s.session.lobbySet).all (s.memberMatches rule)

/-- The own proposal: C plus the start lead as a 32-bit value, rounded up to a multiple of 1000 µs, modulo 2^32 (R92;
DEDUCED, assumption 16). -/
def proposalAt (c : Time) (lead : Nat) : Time :=
  BitVec.ofNat 32 (roundUp 1000 (c + BitVec.ofNat 32 lead).toNat)

/-- The proposal carried in the stored beacon of a station. -/
def State.carriedProposal (s : State) (st : Station) : Option Time :=
  match (s.table.at st).beacon with
  | none => none
  | some (_, b) => b.proposal

/-- Whether a station belongs to the roster. -/
def Session.inRoster (x : Session) (st : Station) : Bool :=
  match x.roster with
  | none => false
  | some m => member m st

/-- A proposal is recorded from a roster member's stored beacon if none is recorded from it (R93). -/
def State.recordProposal (s : State) (st : Station) : State :=
  if s.session.inRoster st && st != s.own && (s.session.proposalOf st).isNone then
    s.setSession (s.session.putProposal st (s.carriedProposal st))
  else s

/-- Entry to PROPOSING (R92): the roster is frozen, the rule is held, the own proposal is recorded, and the others' are
recorded from their stored beacons. -/
def State.enterProposing (s : State) : State :=
  let x := { s.session with
    phase := .proposing, roster := some s.session.lobbySet, held := true, proposals := Vector.replicate 16 none }
  let s1 := s.setSession (x.putProposal s.own (some (proposalAt s.now s.store.startLead)))
  stations.foldl State.recordProposal s1

/-- Item 2 of Condition B: the last frame kind is beacon, or in ARMED a car frame of the own session tag (R94, R95). -/
def State.countsAsBeacon (s : State) (st : Station) : Bool :=
  let entry := s.table.at st
  entry.lastKind == .beacon ||
    (s.session.phase == .armed && entry.lastKind == .car &&
      match entry.car with
      | none => false
      | some (tag, _) => tag == s.session.tag)

/-- Items 1 to 8 of Condition B for one member (R94). -/
def State.memberAgrees (s : State) (roster : StationSet) (st : Station) : Bool :=
  s.live st && s.countsAsBeacon st &&
    match (s.table.at st).beacon, s.session.rule with
    | some (_, b), some rule =>
      b.ready && !b.abort && b.roster == roster && b.rule.agrees rule &&
        (match s.session.proposalOf st with
          | none => true
          | some p => b.proposal == some p)
    | _, _ => false

/-- The lowest-numbered roster member that fails Condition B (R96). -/
def State.failingMember (s : State) : Option Station :=
  let roster := s.session.roster.getD 0
  (s.others roster).find? (fun st => !s.memberAgrees roster st)

/-- The first failing check of Condition B with the cause an abort records; none when Condition B holds (R94, R96). -/
def State.breach (s : State) : Option (AbortCause × Option Station) :=
  if s.clock.state ≠ .locked then some (.clock, none)
  else
    match s.failingMember with
    | some st => some (.member, some st)
    | none => if s.session.ready then none else some (.host, none)

/-- A proposal is recorded for every member of the roster (R97). -/
def State.proposalsComplete (s : State) : Bool :=
  (members (s.session.roster.getD 0)).all fun st => (s.session.proposalOf st).isSome

/-- The later of two times: the one that lies ahead of the other (R97; DEDUCED, assumption 16). -/
def later (a b : Time) : Time := if 0 < tdiff b a then b else a

/-- The latest of the recorded proposals (R97).  DESIGN CHOICE (assumption 16): R97 orders two proposals; over the roster the
model goes through the stations in rising order and keeps the proposal held so far unless the next is later than it, which
decides proposals that follow one another in a ring and proposals exactly 2^31 µs apart. -/
def State.latestProposal (s : State) : Option Time :=
  (members (s.session.roster.getD 0)).foldl
    (fun acc st =>
      match acc, s.session.proposalOf st with
      | none, p => p
      | some a, none => some a
      | some a, some b => some (later a b))
    none

/-- Entry to ARMED (R97): the agreed start, the session tag, and the own car record at its starting value, in both copies
while the table is frozen (R109). -/
def State.enterArmed (s : State) : State :=
  let start := s.latestProposal.getD 0
  let s1 := s.setSession { s.session with phase := .armed, agreed := some start, tag := sessionTag start }
  let grid := gridRecord start
  let s2 := s1.setMotion
    { live := some grid, frozen := if s1.table.freeze.isSome then some grid else s1.motion.frozen }
  s2.signal .armed

/-- A re-evaluation in ARMED: Condition B (R94). -/
def State.evaluateArmed (s : State) : State :=
  let s1 := s.recomputeLobby
  match s1.breach with
  | some (cause, st) => s1.abort cause st
  | none => s1

/-- What follows entry to ARMED: the start instant at once if C has reached the agreed start (R98, R102), else the
re-evaluation of the change of phase.  DEDUCED (assumption 15). -/
def State.afterArmed (s : State) : State := if s.startReached then s.start else s.evaluateArmed

/-- A re-evaluation in PROPOSING: Condition B, then entry to ARMED when every proposal is recorded (R94, R96, R97). -/
def State.evaluateProposing (s : State) : State :=
  let s1 := s.recomputeLobby
  match s1.breach with
  | some (cause, st) => s1.abort cause st
  | none => if s1.proposalsComplete then s1.enterArmed.afterArmed else s1

/-- A re-evaluation in LOBBY: the lobby set, the rule, and Condition A (R82, R91). -/
def State.evaluateLobby (s : State) : State :=
  let s1 := s.recomputeLobby.resolveRule
  if s1.conditionA then s1.enterProposing.evaluateProposing else s1

/-- One re-evaluation by the Session Controller (R82). -/
def State.reevaluate (s : State) : State :=
  match s.session.phase with
  | .lobby => s.evaluateLobby
  | .proposing => s.evaluateProposing
  | .armed => s.evaluateArmed
  | .offline => s.recomputeLobby
  | .racing => s.recomputeLobby
  | .finished => s.recomputeLobby
  | .results => s.recomputeLobby

/-- The Session Controller is told that a beacon from this sender has been applied: in PROPOSING and ARMED its proposal is
recorded before Condition B is evaluated (R61, R93). -/
def State.sessionToldBeacon (s : State) (st : Station) : State :=
  match s.session.phase with
  | .proposing => (s.recordProposal st).reevaluate
  | .armed => (s.recordProposal st).reevaluate
  | .lobby => s.reevaluate
  | .offline => s.reevaluate
  | .racing => s.reevaluate
  | .finished => s.reevaluate
  | .results => s.reevaluate

end Sys2Proof.Machine
end

