-- ==== Sys2Proof/Machine/Peers.lean ====
section
/-! DEFINITION. The Peer Table and the Receive Queue: applying frames (R61, R62), the queue (R57 to R60), and the end of a
freeze (R66). -/

namespace Sys2Proof.Machine

/-- The entry after a beacon: the beacon is replaced, a car record of another session tag is removed with its residual,
and the last frame kind becomes beacon (R61, steps 1 to 3). -/
def Entry.withBeacon (x : Entry) (tag : Byte) (b : Beacon) : Entry :=
  let keep := match x.car with
    | none => true
    | some (carTag, _) => carTag == tag
  { beacon := some (tag, b), car := if keep then x.car else none, residual := if keep then x.residual else 0,
    blendStart := if keep then x.blendStart else 0, lastKind := .beacon }

/-- The entry after a car frame: the car record is replaced, with the new residual and blend start time; the beacon is
kept (R62, steps 2 and 3). -/
def Entry.withCar (x : Entry) (tag : Byte) (c : CarRecord) (e : Int) (ta : Time) : Entry :=
  { x with car := some (tag, c), residual := e, blendStart := ta, lastKind := .car }

/-- The entry without its car record and residual; beacon and last frame kind kept (R71). -/
def Entry.withoutCar (x : Entry) : Entry := { x with car := none, residual := 0, blendStart := 0 }

/-- Replace the entry of a station. -/
def State.putEntry (s : State) (st : Station) (x : Entry) : State := s.setTable (s.table.put st x)

/-- A beacon is applied to its sender's entry (R61).  The Standings Unit judges the frame by the phase at the apply, and
the Session Controller then re-evaluates.  DEDUCED (assumption 13): the two are told in this order. -/
def State.applyBeacon (s : State) (f : Frame) (b : Beacon) : State :=
  let s1 := s.putEntry f.sender ((s.table.at f.sender).withBeacon f.tag b)
  (s1.standingsTold f).sessionToldBeacon f.sender

/-- A finish claim is offered if the record carries FINISHED (R62, step 4). -/
def State.offerFrom (s : State) (f : Frame) (c : CarRecord) : State :=
  match c.finish with
  | none => s
  | some t => s.offerClaim f.sender t f.tag

/-- A car frame is applied to its sender's entry with arrival time t_a (R62; assumption 13). -/
def State.applyCar (s : State) (f : Frame) (c : CarRecord) (ta : Time) : State :=
  let e := s.newResidual f.sender f.tag c ta
  let s1 := s.putEntry f.sender ((s.table.at f.sender).withCar f.tag c e ta)
  ((s1.offerFrom f c).standingsTold f).reevaluate

/-- One frame is applied (R60). -/
def State.applyFrame (s : State) (f : Frame) (ta : Time) : State :=
  match f.body with
  | .beacon b => s.applyBeacon f b
  | .car c => s.applyCar f c ta

/-- Remove the head of the queue. -/
def State.popQueue (s : State) : State := s.setTable { s.table with queue := s.table.queue.tail }

/-- Frames leave the queue from the head, each applied with this arrival time (R60, R66). -/
def drainList (ta : Time) : List Frame → State → State
  | [], s => s
  | f :: fs, s => drainList ta fs (s.popQueue.applyFrame f ta)

/-- The whole queue is applied in order (R66). -/
def State.drain (s : State) (ta : Time) : State := drainList ta s.table.queue s

/-- A frame replaces the waiting frame of its sender in place (R57). -/
def mergeInto (f : Frame) : List Frame → List Frame
  | [] => []
  | g :: gs => if g.sender = f.sender then f :: gs else g :: mergeInto f gs

/-- Whether the queue holds a frame of a sender. -/
def queued (st : Station) (q : List Frame) : Bool := q.any (fun g => g.sender == st)

/-- With 8 entries waiting, the head is discarded, the overrun counter is incremented and RXQ_OVERRUN latches (R58). -/
def State.makeRoom (s : State) : State :=
  match s.table.queue with
  | [] => s
  | g :: gs =>
    if Config.queueDepth ≤ s.table.queue.length then
      (s.setTable { s.table with queue := gs, overruns := satInc s.table.overruns }).signalAt .rxqOverrun g.sender
    else s

/-- A frame joins the tail; RXQ_HIGH latches when the number of entries rises from 5 to 6 (R58, R59). -/
def State.joinTail (s : State) (f : Frame) : State :=
  let s1 := s.setTable { s.table with queue := s.table.queue ++ [f] }
  if s.table.queue.length = 5 then s1.signal .rxqHigh else s1

/-- A frame goes to the Receive Queue (R57, R58). -/
def State.enqueue (s : State) (f : Frame) : State :=
  if queued f.sender s.table.queue then
    s.setTable { s.table with queue := mergeInto f s.table.queue, merges := satInc s.table.merges }
  else s.makeRoom.joinTail f

/-- A frame handed on by the receiver: it is queued, and applied at once at C unless the table is frozen (R57, R60). -/
def State.receive (s : State) (f : Frame) : State :=
  let s1 := s.enqueue f
  match s1.table.freeze with
  | some _ => s1
  | none => s1.drain s1.now

/-- The freeze ends: the queue is applied with t_a = V, then the table is no longer frozen and the frozen own copy is
released (R66). -/
def State.endFreeze (s : State) : State :=
  match s.table.freeze with
  | none => s
  | some f =>
    let s1 := s.drain f.view
    (s1.setTable { s1.table with freeze := none }).setMotion { s1.motion with frozen := none }

/-- Every car record and residual is removed; beacons and last frame kinds are kept (R71). -/
def State.dropCars (s : State) : State := s.setTable { s.table with entries := mapAll Entry.withoutCar s.table.entries }

/-- The Peer Table at LEAVE and NEW RACE: a freeze under way ends as at THAW, then the car records are removed (R71). -/
def State.clearTable (s : State) : State := s.endFreeze.dropCars

/-- The entry of a sender moved from LOST to ABSENT is emptied, and the Session Controller is told (R63). -/
def State.emptyEntry (s : State) (st : Station) : State := (s.putEntry st Entry.empty).reevaluate

end Sys2Proof.Machine
end

