-- ==== Sys2Proof/Machine/Wire.lean ====
section
/-! DEFINITION. Frames on the race bus: their bytes, their CRC, and the six checks of the receiver (R3 to R7, R18;
11, "Formats"). -/

namespace Sys2Proof.Machine

/-! ## CRC (R7) -/

/-- One bit of the CRC: shift, and take in the generator x^16 + x^12 + x^5 + 1. -/
def crcBit (r : BitVec 16) : BitVec 16 := if r.msb then (r <<< 1) ^^^ 0x1021#16 else r <<< 1

/-- One byte taken into the remainder, most significant bit first. -/
def crcByte (r : BitVec 16) (b : Byte) : BitVec 16 :=
  crcBit (crcBit (crcBit (crcBit (crcBit (crcBit (crcBit (crcBit (r ^^^ (b ++ 0#8)))))))))

/-- The CRC over bytes in the order they are sent; the remainder starts at all ones. -/
def crc16 (bytes : List Byte) : BitVec 16 := bytes.foldl crcByte 0xFFFF#16

/-! ## Bodies -/

/-- A bit in its place in a byte. -/
def bitAt (b : Bool) (i : Nat) : Byte := if b then 1#8 <<< i else 0#8

/-- The resolved-rule byte (11, "Beacon body", offset 5). -/
def ruleByte (r : RuleField) : Byte :=
  r.course.setWidth 8 ||| (r.lapCode.setWidth 8 <<< 3) ||| (r.options.setWidth 8 <<< 5) ||| bitAt r.isNone 7

/-- The resolved-rule field of a byte. -/
def ofRuleByte (b : Byte) : RuleField :=
  { isNone := b.getLsbD 7, course := b.extractLsb' 0 3, lapCode := b.extractLsb' 3 2, options := b.extractLsb' 5 2 }

/-- Byte 0 of a beacon body. -/
def beaconFlags (b : Beacon) : Byte :=
  b.phase.code.setWidth 8 ||| bitAt b.ready 4 ||| bitAt b.abort 5 ||| bitAt b.proposal.isSome 6 |||
    bitAt b.agreed.isSome 7

/-- Byte 2 of a beacon body: lap mask and option mask. -/
def maskByte (o : Offer) : Byte := o.laps.setWidth 8 ||| (o.options.setWidth 8 <<< 4)

/-- The six bytes every beacon body has. -/
def beaconHead (b : Beacon) : List Byte :=
  [beaconFlags b, b.offer.courses, maskByte b.offer] ++ be2 b.roster ++ [ruleByte b.rule]

/-- An optional time of a body: four bytes when present, none when absent. -/
def optionalTime : Option Time → List Byte
  | none => []
  | some t => be4 t

/-- A beacon body (11, "Beacon body"). -/
def beaconBody (b : Beacon) : List Byte := beaconHead b ++ optionalTime b.proposal ++ optionalTime b.agreed

/-- The flag byte of a car body, of POST CAR and of READ PEER. -/
def carFlags (c : CarRecord) : Byte :=
  bitAt c.inPit 0 ||| bitAt c.offTrack 1 ||| bitAt c.respawn 2 ||| bitAt c.finish.isSome 3

/-- The fourteen bytes every car body has. -/
def carHead (c : CarRecord) : List Byte :=
  [carFlags c, c.lap] ++ be3 c.position ++ be2 c.speed ++ be2 c.accel ++ [c.lateral] ++ be4 c.recordTime

/-- A car body (11, "Car body"). -/
def carBody (c : CarRecord) : List Byte := carHead c ++ optionalTime c.finish

/-- The body of a frame. -/
def Body.bytes : Body → List Byte
  | .beacon b => beaconBody b
  | .car c => carBody c

/-- The kind of a frame: 1 for a beacon, 2 for a car frame (R4). -/
def Body.kind : Body → BitVec 4
  | .beacon _ => 1
  | .car _ => 2

/-- The length of a frame in bytes, by its kind and optional fields (R4). -/
def Frame.length (f : Frame) : Nat :=
  match f.body with
  | .beacon b => 15 + (if b.proposal.isSome then 4 else 0) + (if b.agreed.isSome then 4 else 0)
  | .car c => if c.finish.isSome then 27 else 23

/-- The kind/sender byte (11, "Frame head and tail"). -/
def Frame.kindByte (f : Frame) : Byte := f.body.kind ++ BitVec.ofNat 4 f.sender.val

/-- The bytes the CRC covers: from the kind/sender byte to the last byte of the body, with this clock stamp (R7). -/
def Frame.covered (f : Frame) (stamp : Time) : List Byte :=
  [f.kindByte, f.tag] ++ be4 stamp ++ f.body.bytes

/-- The bytes driven onto the line, the CRC high byte first, with this clock stamp (R7, R12). -/
def Frame.bytes (f : Frame) (stamp : Time) : List Byte :=
  [Config.syncByte] ++ f.covered stamp ++ be2 (crc16 (f.covered stamp))

/-- The byte at an index of the frame on the line.  Before the start mark only the sync byte has been driven (R12). -/
def Frame.sentByte (f : Frame) (stamp : Option Time) (index : Nat) : Option Byte :=
  match stamp with
  | some t => (f.bytes t)[index]?
  | none => if index = 0 then some Config.syncByte else none

/-! ## Reading a run (R18) -/

/-- The phase a beacon's phase field names; 0 names none (R5). -/
def ofBeaconPhase (b : BitVec 2) : Option BeaconPhase :=
  if b = 1#2 then some .lobby else if b = 2#2 then some .proposing else if b = 3#2 then some .armed else none

/-- The optional times of a beacon body by its two flags; the rest must be as long as the flags give (R4), and HAS_AGREED
stands with HAS_PROPOSAL (R5). -/
def readBeaconTimes (hasProposal hasAgreed : Bool) : List Byte → Option (Option Time × Option Time)
  | [] => if hasProposal || hasAgreed then none else some (none, none)
  | [a, b, c, d] => if hasProposal && !hasAgreed then some (some (of4 a b c d), none) else none
  | [a, b, c, d, e, f, g, h] =>
    if hasProposal && hasAgreed then some (some (of4 a b c d), some (of4 e f g h)) else none
  | _ => none

/-- A beacon body read back: its length by R4 and its fields by R5. -/
def readBeacon : List Byte → Option Beacon
  | flags :: courses :: maskB :: r1 :: r0 :: rule :: rest =>
    match ofBeaconPhase (flags.extractLsb' 0 2), readBeaconTimes (flags.getLsbD 6) (flags.getLsbD 7) rest with
    | some phase, some (proposal, agreed) =>
      some { phase := phase, ready := flags.getLsbD 4, abort := flags.getLsbD 5,
             offer := { courses := courses, laps := maskB.extractLsb' 0 4, options := maskB.extractLsb' 4 2 },
             roster := of2 r1 r0, rule := ofRuleByte rule, proposal := proposal, agreed := agreed }
    | _, _ => none
  | _ => none

/-- The optional finish time of a car body by its FINISHED flag (R4). -/
def readFinish (finished : Bool) : List Byte → Option (Option Time)
  | [] => if finished then none else some none
  | [a, b, c, d] => if finished then some (some (of4 a b c d)) else none
  | _ => none

/-- A car body read back: its length by R4, its lap at most 5 and its position at most 7,999,999 (R6). -/
def readCar : List Byte → Option CarRecord
  | flags :: lap :: p2 :: p1 :: p0 :: v1 :: v0 :: a1 :: a0 :: lateral :: t3 :: t2 :: t1 :: t0 :: rest =>
    if lap.toNat ≤ 5 ∧ (of3 p2 p1 p0).toNat ≤ 7999999 then
      (readFinish (flags.getLsbD 3) rest).map fun finish =>
        { lap := lap, position := of3 p2 p1 p0, speed := of2 v1 v0, accel := of2 a1 a0, lateral := lateral,
          inPit := flags.getLsbD 0, offTrack := flags.getLsbD 1, respawn := flags.getLsbD 2,
          recordTime := of4 t3 t2 t1 t0, finish := finish }
    else none
  | _ => none

/-- A body read back by its kind: the kind is 1 or 2 (R18, check 3). -/
def readBody (kind : BitVec 4) (body : List Byte) : Option Body :=
  if kind = 1#4 then (readBeacon body).map .beacon
  else if kind = 2#4 then (readCar body).map .car
  else none

/-- The two CRC bytes compared with the CRC over the covered bytes (R7). -/
def crcPasses (covered tail : List Byte) : Bool := tail == be2 (crc16 covered)

/-- A run of byte values read as a frame with its clock stamp, by checks 1 and 3 to 6 of R18. -/
def readFrame : List Byte → Option (Frame × Time)
  | sync :: head :: tag :: s3 :: s2 :: s1 :: s0 :: rest =>
    let body := rest.take (rest.length - 2)
    let tail := rest.drop (rest.length - 2)
    if sync = Config.syncByte ∧ crcPasses ([head, tag, s3, s2, s1, s0] ++ body) tail then
      (readBody (head.extractLsb' 4 4) body).map fun b =>
        ({ sender := (head.extractLsb' 0 4).toFin, tag := tag, body := b }, of4 s3 s2 s1 s0)
    else none
  | _ => none

/-- R18: the frame of a valid run with its clock stamp, or none for a bad frame; no byte has a framing error (check 2). -/
def judgeRun (run : List RxByte) : Option (Frame × Time) :=
  if run.any RxByte.framingError then none else readFrame (run.map RxByte.value)

end Sys2Proof.Machine
end

