-- ==== Sys2Proof/Machine/Monitor.lean ====
section
/-! DEFINITION. The Link Monitor and the Race Clock: receptions and offset samples (R23, R25), the window evaluation (R26 to
R32), and steering (R43 to R48). -/

namespace Sys2Proof.Machine

/-- Replace the record of a sender. -/
def State.putSender (s : State) (st : Station) (x : Sender) : State := s.setLink (s.link.put st x)

/-! ## Receptions -/

/-- The clock offset sample: stamp minus capture minus the link delay allowance, as a signed 32-bit difference (R25). -/
def offsetSample (stamp capture : Time) (allowance : Nat) : BitVec 32 := stamp - capture - BitVec.ofNat 32 allowance

/-- The record of a sender after one valid frame (R23, R25). -/
def Sender.heard (x : Sender) (sample : BitVec 32) : Sender :=
  { x with count := satInc8 x.count, presence := if x.presence = .absent then .acquiring else x.presence,
           sample := some sample }

/-- The Link Monitor counts a valid frame and takes its offset sample (R20, R23, R25). -/
def State.countReception (s : State) (st : Station) (stamp capture : Time) : State :=
  s.putSender st ((s.link.at st).heard (offsetSample stamp capture s.store.linkDelay))

/-! ## Window evaluation -/

/-- A sender in ACQUIRING (R27). -/
def State.judgeAcquiring (s : State) (st : Station) (x : Sender) : State :=
  if s.store.on ≤ x.count.toNat then
    ((s.putSender st { x with presence := .present }).signalAt .peerUp st).reevaluate
  else if x.count = 0 then s.putSender st { x with presence := .absent }
  else s

/-- A sender in PRESENT (R28). -/
def State.judgePresent (s : State) (st : Station) (x : Sender) : State :=
  if x.count.toNat < s.store.off then s.putSender st { x with presence := .fading, fade := 1 } else s

/-- A sender in FADING (R29). -/
def State.judgeFading (s : State) (st : Station) (x : Sender) : State :=
  if s.store.on ≤ x.count.toNat then s.putSender st { x with presence := .present, fade := 0 }
  else if s.store.off ≤ x.count.toNat then s
  else
    let fade := min (x.fade + 1) s.store.dropout
    if fade = s.store.dropout then
      let s1 := s.putSender st { x with presence := .lost, fade := 0, expiry := 0, lostAt := some s.now }
      ((s1.signalAt .peerLost st).starterLost st).reevaluate
    else s.putSender st { x with fade := fade }

/-- A sender in LOST, by the own phase at the expiry (R30, R31). -/
def State.judgeLost (s : State) (phase : Phase) (st : Station) (x : Sender) : State :=
  if s.store.on ≤ x.count.toNat then
    let s1 := s.putSender st { x with presence := .present, expiry := 0, lostAt := none }
    ((s1.signalAt .peerBack st).starterBack st).reevaluate
  else if phase.outsideRace then
    if Config.lobbyExpiry ≤ x.expiry + 1 then
      (s.putSender st { x with presence := .absent, expiry := 0, lostAt := none }).emptyEntry st
    else s.putSender st { x with expiry := x.expiry + 1 }
  else s

/-- The presence rule of a sender's current state (R27 to R31). -/
def State.judgePresence (s : State) (phase : Phase) (st : Station) : State :=
  let x := s.link.at st
  match x.presence with
  | .absent => s
  | .acquiring => s.judgeAcquiring st x
  | .present => s.judgePresent st x
  | .fading => s.judgeFading st x
  | .lost => s.judgeLost phase st x

/-- The chatter test of a sender (R32). -/
def State.judgeChatter (s : State) (st : Station) : State :=
  let x := s.link.at st
  if s.store.window + 2 < x.count.toNat then (s.putSender st { x with chatter := true }).signalAt .chatter st else s

/-- One sender judged: its presence rule, then the chatter test (R26). -/
def State.judgeSender (phase : Phase) (s : State) (st : Station) : State := (s.judgePresence phase st).judgeChatter st

/-- Every sender judged, in rising station order (R26). -/
def State.judgeSenders (s : State) (phase : Phase) : State := stations.foldl (State.judgeSender phase) s

/-- The usable samples of the hand-off: those of live senders whose chatter flag is clear (R26, R44). -/
def Link.usable (l : Link) : List Int :=
  stations.filterMap fun st =>
    let x := l.at st
    if x.presence.live && !x.chatter then x.sample.map BitVec.toInt else none

/-- A new window: every count 0, every sample emptied (R26, R35). -/
def Link.newWindow (l : Link) (length : Nat) : Link :=
  { window := length, senders := mapAll (fun x => { x with count := 0, sample := none }) l.senders }

/-- The length of the quality window, W × P (R22). -/
def Store.windowLength (c : Store) : Nat := c.window * c.period

/-! ## Steering -/

/-- The largest value of a sample set that holds the own 0. -/
def largest (xs : List Int) : Int := xs.foldl max 0

/-- The smallest value of a sample set that holds the own 0. -/
def smallest (xs : List Int) : Int := xs.foldl min 0

/-- The target over the own 0 and the peers' samples: with 4 or more values one largest and one smallest are removed, the
rest are summed exactly and divided by their number, rounded toward zero (R44, R45). -/
def steeringTarget (samples : List Int) : Int :=
  let n := samples.length + 1
  if 4 ≤ n then Int.tdiv (samples.sum - largest samples - smallest samples) (n - 2 : Nat)
  else Int.tdiv samples.sum n

/-- A new clock state: a change latches CLOCK_STATE and is signalled at once to the Session Controller (R42). -/
def State.setClockState (s : State) (state : ClockState) : State :=
  if s.clock.state = state then s
  else ((s.setClock { s.clock with state := state }).signal .clockState).reevaluate

/-- The target applied whole, in LOBBY (R47). -/
def Clock.stepWhole (c : Clock) (target : Int) : Clock :=
  { c with k := c.k + BitVec.ofInt 32 target, debt := 0, payment := 0 }

/-- The target applied in limited measure (R48). -/
def Clock.stepLimited (c : Clock) (target : Int) (slew : Nat) : Clock :=
  if 0 < target then { c with k := c.k + BitVec.ofInt 32 (min target slew), debt := 0, payment := 0 }
  else { c with debt := min target.natAbs slew, payment := 0 }

/-- The target applied by the own phase at the expiry (R46 to R48). -/
def State.applyTarget (s : State) (phase : Phase) (target : Int) : State :=
  if phase = .lobby then s.setClock (s.clock.stepWhole target)
  else s.setClock (s.clock.stepLimited target s.store.slew)

/-- The steering evaluation (R43 to R46). -/
def State.steer (s : State) (phase : Phase) (samples : List Int) : State :=
  if phase = .offline then s
  else if samples = [] then s.setClockState .free
  else
    let target := steeringTarget samples
    let state := if target.natAbs ≤ s.store.lockBound then ClockState.locked else .drifting
    (s.setClockState state).applyTarget phase target

/-- The DNF check at its place among the work of a window expiry (R159, assumption 4). -/
def State.dnfCheckAt (s : State) (place here : Nat) : State := if place = here then s.dnfCheck else s

/-- The hand-off: the samples go to the Race Clock and the next window begins (R26). -/
def State.handOff (s : State) (phase : Phase) : State :=
  (s.setLink (s.link.newWindow s.store.windowLength)).steer phase s.link.usable

/-- The work of one window expiry: the Link Monitor's judgement, the steering evaluation, and the DNF check, which comes
before, between or after the two by a free value (R26, R43, R159).  DEDUCED (assumption 12): the phase is read once, at the
expiry. -/
def State.windowEvaluation (s : State) : State :=
  let phase := s.session.phase
  let place := s.pick Config.dnfOrder 3
  let s1 := (s.picked.dnfCheckAt place 0).judgeSenders phase
  ((s1.dnfCheckAt place 1).handOff phase).dnfCheckAt place 2

/-! ## The retard debt -/

/-- One microsecond of T.  While a debt is outstanding the payment count rises by 1 (R49). -/
def Clock.advance (c : Clock) : Clock :=
  { c with t := c.t + 1, payment := if 0 < c.debt then c.payment + 1 else c.payment }

/-- The eighth microsecond of a group: T advances, k is lowered by 1 at the same instant, the debt falls by 1 and the
payment count returns to 0 (R49). -/
def Clock.pay (c : Clock) : Clock := { c with t := c.t + 1, k := c.k - 1, debt := c.debt - 1, payment := 0 }

/-- The payment falls due at the next microsecond (R49). -/
def Clock.paymentDue (c : Clock) : Bool := decide (0 < c.debt) && decide (7 ≤ c.payment)

/-! ## The receiver -/

/-- A valid frame: one of the own station number is a clash and is discarded (R19); any other goes to the Link Monitor and
then to the Receive Queue (R20). -/
def State.handOn (s : State) (f : Frame) (stamp capture : Time) : State :=
  if f.sender = s.own then s.signalAt .stationClash s.own
  else (s.countReception f.sender stamp capture).receive f

/-- A run without the echo mark is judged: a bad frame is counted and discarded, a valid frame is handed on (R18). -/
def State.judgeBytes (s : State) (capture : Time) (run : List RxByte) : State :=
  match judgeRun run with
  | none => s.setBus { s.bus with badFrames := satInc s.bus.badFrames }
  | some (f, stamp) => s.handOn f stamp capture

end Sys2Proof.Machine
end

