-- ==== Sys2Proof/Machine/Transmitter.lean ====
section
/-! DEFINITION. The transmitter and the line: frame assembly and placing (R8 to R10), contention (R11), sending (R12 to
R15), and the receiver's run (R17). -/

namespace Sys2Proof.Machine

/-- The beacon of the own session state (R5). -/
def State.ownBeacon (s : State) (phase : BeaconPhase) : Beacon :=
  { phase := phase, ready := s.session.ready, abort := s.session.abortHold.isSome, offer := s.session.effective,
    roster := if phase = .lobby then s.session.lobbySet else s.session.roster.getD 0,
    rule := ruleField s.session.rule, proposal := s.session.proposalOf s.own, agreed := s.session.agreed }

/-- The body assembled at a period expiry: a beacon in LOBBY, PROPOSING and ARMED, a car frame from the live own record in
RACING, FINISHED and RESULTS (R9).  In OFFLINE the period timer is stopped and nothing is assembled. -/
def State.assembleBody (s : State) : Option Body :=
  match s.session.phase with
  | .lobby => some (.beacon (s.ownBeacon .lobby))
  | .proposing => some (.beacon (s.ownBeacon .proposing))
  | .armed => some (.beacon (s.ownBeacon .armed))
  | .racing => s.motion.live.map .car
  | .finished => s.motion.live.map .car
  | .results => s.motion.live.map .car
  | .offline => none

/-- The frame assembled at a period expiry, under the own number and the own session tag (R9). -/
def State.assemble (s : State) : Option Frame :=
  s.assembleBody.map fun b => { sender := s.own, tag := s.session.tag, body := b }

/-- The number of values a deferral draw may take: 16, 32 and 64 on attempts 1, 2 and 3 (R11). -/
def drawRange (attempt : Nat) : Nat := 16 * 2 ^ (attempt - 1)

/-- The transmitter begins the sync byte's start bit: the start bit is line activity, makes the line busy and opens a run
(R2, R11, R17). -/
def State.beginSending (s : State) (f : Frame) (attempt : Nat) : State :=
  s.setBus { s.bus with tx := .sending f attempt none false none, line := .busy, run := .opening }

/-- With the line idle the transmitter draws its deferral count, and sends at once when the draw is 0 (R11). -/
def State.drawDeferral (s : State) (f : Frame) (attempt : Nat) : State :=
  let d := s.pick Config.deferralDraw (drawRange attempt)
  let s1 := s.picked
  if d = 0 then s1.beginSending f attempt else s1.setBus { s1.bus with tx := .defer f attempt d }

/-- A frame enters WAIT_IDLE, and DEFER at once if the line is idle (R11). -/
def State.contend (s : State) (f : Frame) (attempt : Nat) : State :=
  match s.bus.line with
  | .busy => s.setBus { s.bus with tx := .waitIdle f attempt }
  | .idle => s.drawDeferral f attempt

/-- A newly assembled frame is placed by the transmitter's state (R10). -/
def State.place (s : State) (f : Frame) : State :=
  match s.bus.tx with
  | .idle => s.contend f 1
  | .waitIdle _ _ => s.contend f 1
  | .defer _ _ _ => s.contend f 1
  | .sending current attempt stamp closing _ =>
    s.setBus { s.bus with tx := .sending current attempt stamp closing (some f) }

/-- The frame period timer has expired: it starts again and one frame is assembled and placed (R8, R9, R10;
assumption 20 where there is none to assemble). -/
def State.periodExpiry (s : State) : State :=
  let s1 := s.setBus { s.bus with period := some s.store.period }
  match s1.assemble with
  | some f => s1.place f
  | none => s1

/-- The transmitter after the frame on the line has ended with nothing to retry: pending becomes current with attempt
count 1, or the transmitter is IDLE (R13, R14). -/
def State.takePending (s : State) (pending : Option Frame) : State :=
  match pending with
  | some p => s.contend p 1
  | none => s.setBus { s.bus with tx := .idle }

/-- What follows a collision on a frame that is not closing: pending instead, a retry with a wider draw, or the frame is
dropped after its third collision (R13). -/
def State.afterCollision (s : State) (f : Frame) (attempt : Nat) (pending : Option Frame) : State :=
  match pending with
  | some p => s.contend p 1
  | none =>
    if attempt + 1 ≤ 3 then s.contend f (attempt + 1)
    else (s.setBus { s.bus with tx := .idle, dropped := satInc s.bus.dropped }).signal .frameDropped

/-- An echoed byte that differs from the byte sent, or that has a framing error (R12). -/
def echoDiffers (sent : Byte) (echo : RxByte) : Bool := echo.framingError || echo.value != sent

/-- The start mark of a run: the transmitter in SENDING stamps its frame with C, and the receiver captures C and sets the
echo mark by whether the own transmitter is in SENDING (R3, R12, R17). -/
def Bus.mark (b : Bus) (c : Time) : Bus :=
  match b.run with
  | .opening =>
    { b with
      run := .collecting c b.tx.isSending
      tx := match b.tx with
        | .sending f attempt none closing pending => .sending f attempt (some c) closing pending
        | .sending f attempt (some t) closing pending => .sending f attempt (some t) closing pending
        | .idle => .idle
        | .waitIdle f attempt => .waitIdle f attempt
        | .defer f attempt d => .defer f attempt d }
  | .closed => b
  | .collecting _ _ => b

/-- A collision on the byte at this index of the frame on the line, if the echo shows one (R12, R13, R15).  The echo of the
sync byte ends at the start mark, so a collision there passes the start mark with the transmitter in SENDING, whichever
of the two the line shows first (R3, R17; assumption 8); past the start mark `Bus.mark` changes nothing. -/
def State.collide (s : State) (index : Nat) (echo : RxByte) : State :=
  match s.bus.tx with
  | .sending f attempt stamp closing pending =>
    match f.sentByte stamp index with
    | some sent =>
      if echoDiffers sent echo then
        let s1 := s.setBus { s.bus.mark s.now with collisions := satInc s.bus.collisions }
        if closing then s1.setBus { s1.bus with tx := .idle } else s1.afterCollision f attempt pending
      else s
    | none => s
  | .idle => s
  | .waitIdle _ _ => s
  | .defer _ _ _ => s

/-- The echo of the second CRC byte matches (R12, R14, R15).  DEDUCED (assumption 19): a closing frame ends IDLE, whatever
pending holds. -/
def State.succeed (s : State) (echo : RxByte) : State :=
  match s.bus.tx with
  | .sending f _ (some stamp) closing pending =>
    match (f.bytes stamp).getLast? with
    | some sent =>
      if echoDiffers sent echo then s
      else if closing then s.setBus { s.bus with tx := .idle }
      else s.takePending pending
    | none => s
  | .sending _ _ none _ _ => s
  | .idle => s
  | .waitIdle _ _ => s
  | .defer _ _ _ => s

/-- The transmitter at LEAVE: the period timer stops, pending and a contending frame are discarded, and a frame on the line
is completed as a closing frame (R15). -/
def Bus.close (b : Bus) : Bus :=
  { b with
    period := none
    tx := match b.tx with
      | .sending f attempt stamp _ _ => .sending f attempt stamp true none
      | .idle => .idle
      | .waitIdle _ _ => .idle
      | .defer _ _ _ => .idle }

/-- The transmitter cut off: a frame on the line is released within the bit, and both slots are empty (R16, R200). -/
def Bus.cutOff (b : Bus) : Bus := { b with tx := .idle }

/-- The receiver at the line going idle: a run with the echo mark is the own echo and is not judged, any other is judged
(R17). -/
def State.endRun (s : State) (run : List RxByte) : State :=
  match s.bus.run with
  | .collecting capture false => s.judgeBytes capture run
  | .collecting _ true => s
  | .closed => s
  | .opening => s

/-- The transmitter at the line going idle: WAIT_IDLE draws a deferral; a deferral already drawn resumes where it stands
(R11). -/
def State.resume (s : State) : State :=
  match s.bus.tx with
  | .waitIdle f attempt => s.drawDeferral f attempt
  | .idle => s
  | .defer _ _ _ => s
  | .sending _ _ _ _ _ => s

/-- The line can go idle now: it is busy, no byte is under way, and the own transmitter is not driving it (R2). -/
def Bus.mayIdle (b : Bus) : Bool := b.line == .busy && b.run != .opening && !b.tx.isSending

/-- The line goes idle: the run that ended is judged, and the transmitter may draw its deferral (R2, R11, R17). -/
def State.goIdle (s : State) (run : List RxByte) : State :=
  let s1 := s.endRun run
  (s1.setBus { s1.bus with line := .idle, run := .closed }).resume

/-- A counted slot ends: the count falls by 1, and at 0 the transmitter sends (R2, R11). -/
def State.countSlot (s : State) : State :=
  match s.bus.line, s.bus.tx with
  | .idle, .defer f attempt d =>
    if d ≤ 1 then s.beginSending f attempt else s.setBus { s.bus with tx := .defer f attempt (d - 1) }
  | _, _ => s

end Sys2Proof.Machine
end

