-- ==== Sys2Proof/Machine/Responses.lean ====
section
/-! DEFINITION. The response bytes of the reading commands, in the order of the formats section (11, "Responses", "READ CARS",
"READ STANDINGS").  Each is a snapshot of the state at the command instant (R188). -/

namespace Sys2Proof.Machine

/-- The three bytes of an offer: course, lap and option mask. -/
def Offer.bytes (o : Offer) : List Byte := [o.courses, o.laps.setWidth 8, o.options.setWidth 8]

/-- READ STATUS (R199). -/
def State.statusBytes (s : State) : List Byte :=
  [s.session.phase.code, s.clock.state.code, byteOf s.own.val, markByte [s.straps.rate, s.straps.auto], s.bus.tx.code,
    markByte [s.table.freeze.isSome]] ++
    be4o (s.table.freeze.map Freeze.view) ++ [byteOf s.table.queue.length] ++ be2 s.bus.badFrames ++
    be2 s.bus.collisions ++ be2 s.bus.dropped ++ be2 s.table.merges ++ be2 s.table.overruns ++ [markByte [s.attention]]

/-- READ EVENTS: the latched set and the nine detail stations (R198). -/
def Port.eventBytes (p : Port) : List Byte :=
  be3 (p.latch.setWidth 24) ++ p.details.toList.map (fun st => byteOf st.val)

/-- READ LOBBY (R90). -/
def State.lobbyBytes (s : State) : List Byte :=
  [s.session.phase.code,
    markByte [s.session.ready, s.session.abortHold.isSome, s.session.roster.isSome, s.session.rule.isNone,
      s.session.held]] ++
    s.session.hostOffer.bytes ++ s.store.operator.bytes ++ [s.store.installed] ++ s.session.effective.bytes ++
    be2 s.session.lobbySet ++ be2 (s.session.roster.getD 0) ++
    [ruleByte (ruleField s.session.rule), byteOf s.laps] ++ be3 (BitVec.ofNat 24 s.courseLength) ++ [s.session.tag]

/-- The roster members with a recorded proposal, rising (R105). -/
def Session.recorded (x : Session) : List (Station × Time) :=
  (members (x.roster.getD 0)).filterMap fun st => (x.proposalOf st).map fun t => (st, t)

/-- READ COUNTDOWN (R105). -/
def State.countdownBytes (s : State) : List Byte :=
  let x := s.session
  [x.phase.code, markByte [x.abortHold.isSome, x.roster.isSome, x.agreed.isSome, x.lastAbort.isSome]] ++
    be4 (BitVec.ofNat 32 (x.abortHold.getD 0)) ++ be2 (x.roster.getD 0) ++ [byteOf x.recorded.length] ++
    be4o x.agreed ++
    [x.tag, (match x.lastAbort with
      | some (cause, _) => cause.code
      | none => 0),
     (match x.lastAbort with
      | some (_, some st) => byteOf st.val
      | some (_, none) => 0
      | none => 0)] ++
    x.recorded.flatMap (fun r => byteOf r.1.val :: be4 r.2)

/-- The elapsed race time of READ CLOCK (R51). -/
def State.elapsed (s : State) : Option Time :=
  match s.session.phase with
  | .armed => s.session.agreed.map (s.now - ·)
  | .racing => s.session.agreed.map (s.now - ·)
  | .finished => s.session.agreed.map (s.now - ·)
  | .results =>
    match s.session.agreed, s.standings.overAt with
    | some start, some t => some (t - start)
    | _, _ => none
  | .offline => none
  | .lobby => none
  | .proposing => none

/-- READ CLOCK (R51). -/
def State.clockBytes (s : State) : List Byte :=
  be4 s.now ++ [s.clock.state.code] ++ be2 (BitVec.ofNat 16 s.clock.debt) ++ [markByte [s.elapsed.isSome]] ++
    be4o s.elapsed

/-- The fourteen beacon body bytes of READ PEER: absent optional times are sent as 0. -/
def beaconReport : Option (Byte × Beacon) → List Byte
  | some (_, b) => beaconHead b ++ be4o b.proposal ++ be4o b.agreed
  | none => List.replicate 14 0

/-- The eighteen car body bytes of READ PEER. -/
def carReport : Option (Byte × CarRecord) → List Byte
  | some (_, c) => carHead c ++ be4o c.finish
  | none => List.replicate 18 0

/-- The session tag beside an optional record, 0 when it is absent. -/
def tagOf {α : Type} : Option (Byte × α) → Byte
  | some (tag, _) => tag
  | none => 0

/-- READ PEER (R38, R68). -/
def State.peerBytes (s : State) (st : Station) : List Byte :=
  let x := s.link.at st
  let y := s.table.at st
  [byteOf st.val, x.presence.code, x.count, byteOf x.fade, byteOf x.expiry,
    markByte [x.chatter, x.sample.isSome, queued st s.table.queue, y.beacon.isSome, y.car.isSome]] ++
    be4o x.sample ++ [y.lastKind.code, tagOf y.beacon] ++ beaconReport y.beacon ++ [tagOf y.car] ++ carReport y.car ++
    be4 (BitVec.ofInt 32 y.residual) ++ be4 y.blendStart

/-- One car of READ CARS (R130). -/
structure CarLine where
  station : Station
  status : Option RaceStatus
  lap : Nat
  position : Nat
  lateral : Byte
  speed : Int
  stale : Bool
  inPit : Bool
  offTrack : Bool
  finished : Bool
  noRecord : Bool
  deriving DecidableEq, Repr

/-- A car of the race in READ CARS (R129, R130). -/
def State.raceLine (s : State) (st : Station) : CarLine :=
  let p := s.present s.viewCopy st s.viewTime
  { station := st, status := (s.standings.at st).map Starter.status, lap := s.lapOf p.distance,
    position := s.positionOf p.distance, lateral := p.lateral, speed := p.speed, stale := p.stale, inPit := p.inPit,
    offTrack := p.offTrack, finished := p.finished, noRecord := p.noRecord }

/-- A car reported as carried, in OFFLINE, LOBBY and PROPOSING (R131). -/
def State.carriedLine (s : State) (st : Station) (c : CarRecord) : CarLine :=
  { station := st, status := none, lap := c.lap.toNat, position := c.position.toNat, lateral := c.lateral,
    speed := c.speed.toInt, stale := decide ((s.store.horizon : Int) < tdiff s.viewTime c.recordTime),
    inPit := c.inPit, offTrack := c.offTrack, finished := c.finished, noRecord := false }

/-- The cars reported as carried: each live peer whose entry holds a car record (R129). -/
def State.carriedLines (s : State) : List CarLine :=
  stations.filterMap fun st =>
    if st ≠ s.own ∧ s.live st = true then (s.table.at st).car.map fun r => s.carriedLine st r.2 else none

/-- The starters, rising. -/
def State.starterStations (s : State) : List Station := stations.filter fun st => (s.standings.at st).isSome

/-- The cars READ CARS lists, by the phase (R129). -/
def State.carLines (s : State) : List CarLine :=
  match s.session.phase with
  | .offline => s.carriedLines
  | .lobby => s.carriedLines
  | .proposing => s.carriedLines
  | .armed => (members (s.session.roster.getD 0)).map s.raceLine
  | .racing => s.starterStations.map s.raceLine
  | .finished => s.starterStations.map s.raceLine
  | .results => s.starterStations.map s.raceLine

/-- The ten bytes of one car (11, "READ CARS"). -/
def CarLine.bytes (x : CarLine) : List Byte :=
  [byteOf x.station.val,
    (match x.status with
      | some r => r.code
      | none => 0),
    byteOf x.lap] ++
    be3 (BitVec.ofNat 24 x.position) ++ [x.lateral] ++ be2 (BitVec.ofInt 16 x.speed) ++
    [markByte [x.stale, x.inPit, x.offTrack, x.finished, x.noRecord]]

/-- A rule is held: L and the race laps stand in the header of READ CARS (R130). -/
def State.heldLength (s : State) : Nat := if s.session.held then s.courseLength else 0

/-- The race laps of the held rule, 0 when no rule is held (R130). -/
def State.heldLaps (s : State) : Nat := if s.session.held then s.laps else 0

/-- READ CARS (R129, R130). -/
def State.carsBytes (s : State) : List Byte :=
  be4 s.viewTime ++ [markByte [s.table.freeze.isSome], s.session.phase.code] ++ be3 (BitVec.ofNat 24 s.heldLength) ++
    [byteOf s.heldLaps, byteOf s.carLines.length] ++ s.carLines.flatMap CarLine.bytes

/-- READ PROX (R150). -/
def State.proxBytes (s : State) : List Byte :=
  [markByte [s.prox.enabled, s.sweepRuns, contactOn s.heldOptions, draftOn s.heldOptions], byteOf s.prox.position.val] ++
    s.prox.peers.toList.flatMap (fun x => x.state.code :: be2 (BitVec.ofInt 16 x.closing))

/-- The 29 bytes of one standings entry (11, "READ STANDINGS"). -/
def Standing.bytes (x : Standing) : List Byte :=
  [byteOf x.place, byteOf x.station.val, x.status.code, byteOf x.lap] ++ be4 (BitVec.ofNat 32 x.distance) ++
    [markByte [x.elapsed.isSome, x.finish.isSome, x.gapT.isSome, x.gapD.isSome, x.delta.isSome]] ++
    be4 (BitVec.ofNat 32 (x.elapsed.getD 0)) ++ be4o x.finish ++ be4 (BitVec.ofNat 32 (x.gapT.getD 0)) ++
    be4 (BitVec.ofNat 32 (x.gapD.getD 0)) ++ be4 (BitVec.ofInt 32 (x.delta.getD 0))

/-- The evaluation time of the standings: the race-over instant in RESULTS, 0 when there are no starters (R169). -/
def State.standingsTime (s : State) : Time :=
  match s.session.phase with
  | .racing => s.viewTime
  | .finished => s.viewTime
  | .results => s.standings.overAt.getD 0
  | .offline => 0
  | .lobby => 0
  | .proposing => 0
  | .armed => 0

/-- READ STANDINGS: the header and the entries from the start place on (R169). -/
def State.standingsBytes (s : State) (start count : Nat) : List Byte :=
  let list := s.standingsList
  let shown := (list.drop (start - 1)).take count
  let final := s.session.phase == .results
  be4 (if list = [] then 0 else s.standingsTime) ++
    [markByte [s.session.phase.inRace && s.table.freeze.isSome, final],
     (match s.session.phase, s.standings.cause with
      | .results, some c => c.code
      | _, _ => 0),
     s.session.phase.code, byteOf list.length] ++
    be4 (if list = [] then 0 else s.session.agreed.getD 0) ++ [byteOf shown.length] ++ shown.flatMap Standing.bytes

/-- The answer of READ LINE from its finished formatting state (R186). -/
def Fmt.bytes (x : Fmt) : List Byte := [markByte [x.short, false, x.trunc], byteOf x.line.length] ++ x.line

end Sys2Proof.Machine
end

