-- ==== Sys2Proof/Machine/HostPort.lean ====
section
/-! DEFINITION. The transaction of the Host Port (R187 to R191) and the power-on state taken at a rise of HSEL (R202): the
operations every command of the host shares, and the gate every event of the part passes while RESET is high (R200). -/

namespace Sys2Proof.Machine

/-- The answer of a command: the state it leaves, its status, and its response bytes (R188). -/
structure Answer where
  state : State
  status : Status
  response : List Byte
  deriving DecidableEq, Repr

/-- A command taken without a response. -/
def State.done (s : State) : Answer := { state := s, status := .ok, response := [] }

/-- A command taken that leaves the state as it is and answers bytes. -/
def State.report (s : State) (bytes : List Byte) : Answer := { state := s, status := .ok, response := bytes }

/-- A command refused: it changes nothing and its answer is its status alone (R188). -/
def State.refuse (s : State) (status : Status) : Answer := { state := s, status := status, response := [] }

/-- A command instant can come: HSEL is low and the command has not been acted on (R187, R188). -/
def Port.ready (p : Port) : Bool := p.state == .command || p.state == .operands

/-- The command of this row can be the transaction's: the bytes already clocked in are the first of its bytes (R187). -/
def Port.takes (p : Port) (i : Instr) : Bool :=
  p.ready &&
    match commandBytes i with
    | some bytes => p.buffer.isPrefixOf bytes
    | none => false

/-- The port with no byte clocked in and none to come: those that HDI still carries in this transaction are ignored (R188,
R191). -/
def Port.emptied (p : Port) : Port := { p with hdi := [], buffer := [], counted := 0 }

/-- The port after a command instant: RESPONSE, the buffer acted on, and the whole response formed; the bytes clocked in
from here on are ignored (R187, R188). -/
def Port.respond (p : Port) (status : Status) (response : List Byte) : Port :=
  { p.emptied with state := .response, response := status.code :: response }

/-- The answer of a command stands in the port. -/
def Answer.deliver (a : Answer) : State := a.state.setPort (a.state.port.respond a.status a.response)

/-- A state change that happens only while RESET is high (R200). -/
def whenRunning (s : State) (act : State → State) : Host.Outcome State Fault Refusal :=
  .next (if s.inReset then s else act s)

/-- A command of the host at its command instant: the bytes of it that were still due have come in (R187, R188).  Bytes
clocked in while HSEL is high, after the command instant, in DISCARD or while RESET is low are ignored (R187, R188, R191,
R200), and so is a command whose bytes are not those of the transaction (DESIGN CHOICE, assumption 5). -/
def hostCommand (i : Instr) (s : State) (judge : State → Answer) : Host.Outcome State Fault Refusal :=
  whenRunning s fun s => if s.port.takes i then (judge s).deliver else s

/-- An event that happens only where its cause stands: where the cause has gone, or has not come, the event does not
happen and nothing changes (assumption 5). -/
def onCause (s : State) (cause : State → Bool) (act : State → State) : Host.Outcome State Fault Refusal :=
  whenRunning s fun s => if cause s then act s else s

/-- The bytes of the transaction clocked in so far; those counted but not stored stand as 0, which no rule reads (R172,
R187). -/
def Port.bytes (p : Port) : List Byte := p.buffer ++ List.replicate (p.counted - p.buffer.length) 0

/-- A byte is clocked in and operand bytes are still due: OPERANDS, with the byte stored while the buffer has room (R172,
R187). -/
def Port.clockIn (p : Port) (x : Byte) : Port :=
  { p with state := .operands, buffer := (p.buffer ++ [x]).take Config.bufferDepth, counted := p.counted + 1 }

/-- The host's next byte is complete on HDI (R187). -/
def Port.byteDue (p : Port) : Bool :=
  p.ready &&
    match p.hdi with
    | [] => false
    | x :: _ => x.wait == 0

/-- The next byte a microsecond nearer. -/
def nearer : List HdiByte → List HdiByte
  | [] => []
  | x :: rest => { x with wait := x.wait - 1 } :: rest

/-- One microsecond of T passes on HDI, where bytes are being clocked in (assumption 9). -/
def Port.tick (p : Port) : Port := if p.ready then { p with hdi := nearer p.hdi } else p

/-- The byte HDO carries at this place after the command instant: the status byte, the response bytes, then 0xFF (R188,
R191). -/
def Port.hdo (p : Port) (n : Nat) : Byte := p.response.getD n 0xFF#8

/-- What the part drives on HDO: nothing while RESET is low, where HDO is left released (R187, R200); 0xFF while the command
and operand bytes are clocked in (R187); and at each place after the command instant the byte of the answer.  DEDUCED
(assumption 9): with HSEL high HDO is released. -/
def State.hdo (s : State) (n : Nat) : Option Byte :=
  if s.inReset then none
  else
    match s.port.state with
    | .idle => none
    | .command => some 0xFF#8
    | .operands => some 0xFF#8
    | .response => some (s.port.hdo n)
    | .discard => some (s.port.hdo n)

/-- The transaction over: IDLE, the bytes clocked in and the response dropped, every since-snapshot mark cleared (R187, R189,
R190, R198). -/
def Port.endTransaction (p : Port) : Port :=
  { p.emptied with state := .idle, response := [], marks := 0, readEvents := .none, softReset := false }

/-- SOFT RESET acts: every block takes its power-on state and the sampled straps are kept (R202). -/
def State.softReset (s : State) : State := State.powerOn s.straps s.pending s.choices

/-- HSEL rises: the transaction ends, and a SOFT RESET that was taken acts (R190, R202; assumption
10). -/
def State.raiseSelect (s : State) : State :=
  if s.port.softReset then s.softReset else s.setPort s.port.endTransaction

end Sys2Proof.Machine
end

