-- ==== Sys2Proof/Machine/BusEvents.lean ====
section
/-! DEFINITION. The events of the race bus (01). -/

namespace Sys2Proof.Machine

/-- The frame period timer has run out (R8). -/
def State.periodOver (s : State) : Bool := s.bus.period == some 0

/-- FRAME_PERIOD_EXPIRY (R8 to R10). -/
def execFramePeriodExpiry (s : State) : Host.Outcome State Fault Refusal :=
  onCause s State.periodOver State.periodExpiry

/-- A start bit on the idle line: the line becomes busy and the first byte of a run is under way; a deferral count stands
where it is (R2, R11, R17). -/
def Bus.startBit (b : Bus) : Bus := { b with line := .busy, run := .opening }

/-- LINE_ACTIVITY: on a busy line a further start bit changes nothing (R2). -/
def execLineActivity (s : State) : Host.Outcome State Fault Refusal :=
  onCause s (fun s => s.bus.line == .idle) fun s => s.setBus s.bus.startBit

/-- START_MARK (R3, R12, R17). -/
def execStartMark (s : State) : Host.Outcome State Fault Refusal :=
  whenRunning s fun s => s.setBus (s.bus.mark s.now)

/-- LINE_IDLE, with the bytes of the run that ends (R2, R11, R17 to R20; assumption 8). -/
def execLineIdle (run : List RxByte) (s : State) : Host.Outcome State Fault Refusal :=
  onCause s (fun s => s.bus.mayIdle) fun s => s.goIdle run

/-- DEFERRAL_SLOT (R2, R11). -/
def execDeferralSlot (s : State) : Host.Outcome State Fault Refusal := whenRunning s State.countSlot

/-- COLLISION (R12, R13, R15). -/
def execCollision (index : Nat) (echo : RxByte) (s : State) : Host.Outcome State Fault Refusal :=
  whenRunning s fun s => s.collide index echo

/-- TX_SUCCESS (R12, R14, R15). -/
def execTxSuccess (echo : RxByte) (s : State) : Host.Outcome State Fault Refusal :=
  whenRunning s fun s => s.succeed echo

end Sys2Proof.Machine
end

