-- ==== Sys2Proof/Machine/CarCommands.lean ====
section
/-! DEFINITION. The own car and the race picture: POST CAR, READ CARS, the Proximity Monitor's commands and sweep step,
READ STANDINGS and READ LINE (07 to 10). -/

namespace Sys2Proof.Machine

/-! ## POST CAR -/

/-- The response of a post taken (R110). -/
def postBytes (c : CarRecord) (clamped : Bool) : List Byte :=
  be4 c.recordTime ++ [c.lap] ++ be3 c.position ++ [markByte [clamped, c.finished]] ++ be4o c.finish

/-- The live copy is replaced; the frozen copy is left as it is (R109, R110). -/
def State.setLive (s : State) (c : CarRecord) : State := s.setMotion { s.motion with live := some c }

/-- The own finish: the phase becomes FINISHED, the sweep stops, the own claim is offered, and the change of phase starts a
re-evaluation (R113, R135, R156). -/
def State.ownFinish (s : State) (finish : Time) : State :=
  let s1 := s.setSession { s.session with phase := .finished }
  ((s1.setProx s1.prox.stopped).offerClaim s.own finish s.session.tag).reevaluate

/-- What a post does besides replacing the live copy (R113). -/
def State.afterPost (s : State) (kind : PostKind) (c : CarRecord) : State :=
  match kind, c.finish with
  | .finish, some t => s.ownFinish t
  | .finish, none => s
  | .after, _ => s
  | .plain, _ => s

/-- A post taken (R110 to R114). -/
def State.takePost (s : State) (p : CarPost) : Answer :=
  let c := s.postedRecord p
  ((s.setLive c).afterPost (s.postKind p) c).report (postBytes c (s.postClamped p))

/-- POST CAR in ARMED, RACING and FINISHED, refused elsewhere (R110). -/
def State.postCar (p : CarPost) (s : State) : Answer :=
  match s.session.phase with
  | .armed => s.takePost p
  | .racing => s.takePost p
  | .finished => s.takePost p
  | .offline => s.refuse .phase
  | .lobby => s.refuse .phase
  | .proposing => s.refuse .phase
  | .results => s.refuse .phase

/-- POST CAR. -/
def execPostCar (p : CarPost) (s : State) : Host.Outcome State Fault Refusal :=
  hostCommand (.postCar p) s (State.postCar p)

/-- READ CARS (R129). -/
def execReadCars (s : State) : Host.Outcome State Fault Refusal :=
  hostCommand .readCars s fun s => s.report s.carsBytes

/-! ## Proximity Monitor -/

/-- PROX ON: nothing when the flag is set already; else it is set, and in RACING the sweep timer starts from the held sweep
position (R139). -/
def State.proxOn (s : State) : Answer :=
  if s.prox.enabled then s.done
  else
    let p := { s.prox with enabled := true }
    (s.setProx (if s.session.phase = .racing then p.started s.store.sweepGap else p)).done

/-- PROX ON. -/
def execProxOn (s : State) : Host.Outcome State Fault Refusal := hostCommand .proxOn s State.proxOn

/-- PROX OFF: the flag is cleared and the sweep stops; states, closing speeds and sweep position are held (R138). -/
def State.proxOff (s : State) : Answer := (s.setProx { s.prox with enabled := false, timer := none }).done

/-- PROX OFF. -/
def execProxOff (s : State) : Host.Outcome State Fault Refusal := hostCommand .proxOff s State.proxOff

/-- READ PROX (R150). -/
def execReadProx (s : State) : Host.Outcome State Fault Refusal :=
  hostCommand .readProx s fun s => s.report s.proxBytes

/-- The sweep timer of a running sweep has expired (R135). -/
def State.sweepDue (s : State) : Bool := s.sweepRuns && s.prox.timer == some 0

/-- SWEEP_STEP (R136). -/
def execSweepStep (s : State) : Host.Outcome State Fault Refusal := onCause s State.sweepDue State.sweep

/-! ## Standings and lines -/

/-- READ STANDINGS (R169). -/
def State.readStandings (start count : Byte) (s : State) : Answer :=
  if 1 ≤ start.toNat ∧ start.toNat ≤ 16 ∧ 1 ≤ count.toNat ∧ count.toNat ≤ 16 then
    s.report (s.standingsBytes start.toNat count.toNat)
  else s.refuse .operand

/-- READ STANDINGS. -/
def execReadStandings (start count : Byte) (s : State) : Host.Outcome State Fault Refusal :=
  hostCommand (.readStandings start count) s (State.readStandings start count)

/-- RACING, FINISHED and RESULTS: there are standings (R186). -/
def Phase.hasStandings : Phase → Bool
  | .racing => true
  | .finished => true
  | .results => true
  | .offline => false
  | .lobby => false
  | .proposing => false
  | .armed => false

/-- The steps loaded at a pattern index. -/
def State.pattern (s : State) (index : Nat) : Option (List Step) := (s.patterns[index]?).getD none

/-- READ LINE, judged by its four tests in order (R186). -/
def State.readLine (place pattern : Byte) (s : State) : Answer :=
  if place.toNat = 0 ∨ 16 < place.toNat ∨ 7 < pattern.toNat then s.refuse .operand
  else if s.session.phase.hasStandings = false then s.refuse .phase
  else
    match s.pattern pattern.toNat, s.standingsList[place.toNat - 1]? with
    | none, _ => s.refuse .operand
    | some _, none => s.refuse .operand
    | some steps, some entry => s.report (runPattern entry steps).bytes

/-- READ LINE. -/
def execReadLine (place pattern : Byte) (s : State) : Host.Outcome State Fault Refusal :=
  hostCommand (.readLine place pattern) s (State.readLine place pattern)

end Sys2Proof.Machine
end

