-- ==== Sys2Proof/Machine/PeerCommands.lean ====
section
/-! DEFINITION. The Link Monitor, the Race Clock and the Peer Table: READ PEER, FREEZE, THAW, CLEAR FAULTS, READ CLOCK, and the
expiries of the quality window, the freeze timer and the retard debt (02, 03, 04), with one microsecond of T. -/

namespace Sys2Proof.Machine

/-! ## One microsecond of T (R41) -/

/-- A timer one microsecond later. -/
def countDown (timer : Option Nat) : Option Nat := timer.map (· - 1)

/-- Every timer that runs on T, one microsecond later (R41), with the host's next byte on HDI nearer by as much. -/
def State.countTimers (s : State) : State :=
  let s1 := (s.setBus { s.bus with period := countDown s.bus.period }).setLink
    { s.link with window := s.link.window - 1 }
  let s2 := s1.setTable { s1.table with freeze := s1.table.freeze.map fun f => { f with left := f.left - 1 } }
  let s3 := s2.setSession { s2.session with abortHold := countDown s2.session.abortHold }
  (s3.setProx { s3.prox with timer := countDown s3.prox.timer }).setPort s3.port.tick

/-- A microsecond of T in which no debt payment falls (R39, R49). -/
def State.microsecond (s : State) : State := s.countTimers.setClock s.clock.advance

/-- The microsecond of T in which 1 µs of the retard debt is paid (R49). -/
def State.payMicrosecond (s : State) : State := s.countTimers.setClock s.clock.pay

/-- The payment count reaches 8 at the next microsecond (R49). -/
def State.paymentDue (s : State) : Bool := s.clock.paymentDue

/-- DEBT_PAYMENT (R49, R50). -/
def execDebtPayment (s : State) : Host.Outcome State Fault Refusal := onCause s State.paymentDue State.payMicrosecond

/-! ## Window and freeze expiries -/

/-- The quality window has ended (R22). -/
def State.windowOver (s : State) : Bool := s.link.window == 0

/-- WINDOW_EXPIRY (R26). -/
def execWindowExpiry (s : State) : Host.Outcome State Fault Refusal :=
  onCause s State.windowOver State.windowEvaluation

/-- The freeze timer has run out (R67). -/
def State.freezeOver (s : State) : Bool :=
  match s.table.freeze with
  | some f => f.left == 0
  | none => false

/-- FREEZE_TIMER_EXPIRY: the freeze ends as at THAW and FREEZE_EXPIRED latches (R67). -/
def execFreezeTimerExpiry (s : State) : Host.Outcome State Fault Refusal :=
  onCause s State.freezeOver fun s => s.endFreeze.signal .freezeExpired

/-! ## Commands -/

/-- READ PEER (R38, R68). -/
def State.readPeer (station : Byte) (s : State) : Answer :=
  if h : station.toNat < 16 then s.report (s.peerBytes ⟨station.toNat, h⟩) else s.refuse .operand

/-- READ PEER. -/
def execReadPeer (station : Byte) (s : State) : Host.Outcome State Fault Refusal :=
  hostCommand (.readPeer station) s (State.readPeer station)

/-- READ CLOCK (R51). -/
def execReadClock (s : State) : Host.Outcome State Fault Refusal :=
  hostCommand .readClock s fun s => s.report s.clockBytes

/-- The table freezes at V = C, the live own record is copied, and the freeze timer starts (R64, R109). -/
def State.beginFreeze (s : State) : State :=
  (s.setTable { s.table with freeze := some { view := s.now, left := Config.freezeTime } }).setMotion
    { s.motion with frozen := s.motion.live }

/-- FREEZE (R64). -/
def State.freeze (s : State) : Answer :=
  if s.session.phase = .offline then s.refuse .phase
  else
    match s.table.freeze with
    | some _ => s.refuse .busy
    | none => s.beginFreeze.report (be4 s.now)

/-- FREEZE. -/
def execFreeze (s : State) : Host.Outcome State Fault Refusal := hostCommand .freeze s State.freeze

/-- THAW: the count of entries applied, 0 when the table is not frozen (R66). -/
def State.thaw (s : State) : Answer :=
  match s.table.freeze with
  | some _ => s.endFreeze.report [byteOf s.table.queue.length]
  | none => s.report [0]

/-- THAW. -/
def execThaw (s : State) : Host.Outcome State Fault Refusal := hostCommand .thaw s State.thaw

/-- CLEAR FAULTS: the chatter flag of every sender is cleared (R33). -/
def State.clearFaults (s : State) : Answer :=
  (s.setLink { s.link with senders := mapAll (fun x => { x with chatter := false }) s.link.senders }).done

/-- CLEAR FAULTS. -/
def execClearFaults (s : State) : Host.Outcome State Fault Refusal := hostCommand .clearFaults s State.clearFaults

end Sys2Proof.Machine
end

