-- ==== Sys2Proof/Machine/SessionCommands.lean ====
section
/-! DEFINITION. The session: JOIN, LEAVE, NEW RACE, offers, readiness, the countdown, the start instant and the race's end
(05, 06, 09), with the commands that read them. -/

namespace Sys2Proof.Machine

/-- JOIN in OFFLINE: LOBBY, the period timer starts, the bus counters are 0, and a re-evaluation (R8, R21, R73, R86). -/
def State.joinLobby (s : State) : State :=
  let s1 := s.setSession { s.session with phase := .lobby, cleardownMark := false }
  let s2 := s1.setBus
    { s1.bus with period := some s.store.period, badFrames := 0, collisions := 0, dropped := 0 }
  s2.reevaluate

/-- JOIN as the host gives it (R73). -/
def State.join (s : State) : Answer := if s.session.phase = .offline then s.joinLobby.done else s.refuse .phase

/-- JOIN. -/
def execJoin (s : State) : Host.Outcome State Fault Refusal := hostCommand .join s State.join

/-- PROPOSING or ARMED: a countdown is under way. -/
def Phase.countdown : Phase → Bool
  | .proposing => true
  | .armed => true
  | .offline => false
  | .lobby => false
  | .racing => false
  | .finished => false
  | .results => false

/-- The Session Controller at LEAVE, with the re-evaluation of its change of phase (R74, R86, R106). -/
def State.leaveSession (s : State) : State :=
  let x := s.session
  let left := { x.dissolve.stopTimers with
    phase := .offline, ready := false, abortHold := none, rule := none,
    lastAbort := if x.phase.countdown then some (.leave, none) else x.lastAbort }
  let s1 := s.setSession left
  let s2 := if x.phase.countdown then s1.signal .aborted else s1
  (if x.rule = none then s2 else s2.signal .ruleChange).reevaluate

/-- The Race Clock at LEAVE: k, debt and payment count 0, clock state FREE (R53). -/
def State.freeClock (s : State) : State :=
  (s.setClock { s.clock with k := 0, debt := 0, payment := 0 }).setClockState .free

/-- What LEAVE and NEW RACE remove with the race: the own car record, the starters and the final list, the proximity
judgements, and the car records after a freeze has been drained (R71, R75, R77). -/
def State.removeRace (s : State) : State :=
  let s1 := (s.setStandings Standings.empty).setProx s.prox.cleared
  (s1.setMotion { live := none, frozen := none }).clearTable

/-- LEAVE outside OFFLINE: the Session Controller first, then every other block (R74, R75; DEDUCED, assumption 14). -/
def State.leaveRace (s : State) : State :=
  let s1 := s.leaveSession
  ((s1.setBus s1.bus.close).freeClock).removeRace

/-- LEAVE: in OFFLINE it answers OK and changes nothing (R74).  DEDUCED (assumption 24): so the car records that R71 removes
"in any phase" stay in OFFLINE. -/
def State.leave (s : State) : Answer := if s.session.phase = .offline then s.done else s.leaveRace.done

/-- LEAVE. -/
def execLeave (s : State) : Host.Outcome State Fault Refusal := hostCommand .leave s State.leave

/-- The Session Controller at NEW RACE, with the re-evaluation that resolves the rule afresh against the rule held through
the race (R76, R86, R106). -/
def State.newRaceSession (s : State) : State :=
  (s.setSession
    { s.session.dissolve.stopTimers with phase := .lobby, ready := false, abortHold := none }).reevaluate

/-- NEW RACE in RESULTS, refused elsewhere (R76, R77). -/
def State.newRace (s : State) : Answer :=
  if s.session.phase = .results then s.newRaceSession.removeRace.done else s.refuse .phase

/-- NEW RACE. -/
def execNewRace (s : State) : Host.Outcome State Fault Refusal := hostCommand .newRace s State.newRace

/-- SET OFFER in LOBBY with the ready flag clear (R78). -/
def State.setOffer (courses laps options : Byte) (s : State) : Answer :=
  if s.session.phase = .lobby then
    if s.session.ready then s.refuse .locked
    else
      let offer : Offer := { courses := courses, laps := laps.extractLsb' 0 4, options := options.extractLsb' 0 2 }
      ((s.setSession { s.session with hostOffer := offer }).recomputeOffer.reevaluate).done
  else s.refuse .phase

/-- SET OFFER. -/
def execSetOffer (courses laps options : Byte) (s : State) : Host.Outcome State Fault Refusal :=
  hostCommand (.setOffer courses laps options) s (State.setOffer courses laps options)

/-- The ready flag set or cleared. -/
def State.setReadyFlag (s : State) (b : Bool) : State := s.setSession { s.session with ready := b }

/-- SET READY (R87). -/
def State.setReady (s : State) : Answer :=
  match s.session.phase with
  | .lobby => (s.setReadyFlag true).reevaluate.done
  | .proposing => s.done
  | .armed => s.done
  | .offline => s.refuse .phase
  | .racing => s.refuse .phase
  | .finished => s.refuse .phase
  | .results => s.refuse .phase

/-- SET READY. -/
def execSetReady (s : State) : Host.Outcome State Fault Refusal := hostCommand .setReady s State.setReady

/-- CLEAR READY: in LOBBY the flag is cleared, in PROPOSING and ARMED it is an abort with cause HOST (R101). -/
def State.clearReady (s : State) : Answer :=
  match s.session.phase with
  | .lobby => (s.setReadyFlag false).reevaluate.done
  | .proposing => ((s.setReadyFlag false).abort .host none).done
  | .armed => ((s.setReadyFlag false).abort .host none).done
  | .offline => s.refuse .phase
  | .racing => s.refuse .phase
  | .finished => s.refuse .phase
  | .results => s.refuse .phase

/-- CLEAR READY. -/
def execClearReady (s : State) : Host.Outcome State Fault Refusal := hostCommand .clearReady s State.clearReady

/-- READ LOBBY (R90). -/
def execReadLobby (s : State) : Host.Outcome State Fault Refusal :=
  hostCommand .readLobby s fun s => s.report s.lobbyBytes

/-- READ COUNTDOWN (R105). -/
def execReadCountdown (s : State) : Host.Outcome State Fault Refusal :=
  hostCommand .readCountdown s fun s => s.report s.countdownBytes

/-- The abort hold has run out (R100). -/
def State.holdOver (s : State) : Bool := s.session.abortHold == some 0

/-- The abort flag is cleared and a re-evaluation starts (R100). -/
def State.endHold (s : State) : State := (s.setSession { s.session with abortHold := none }).reevaluate

/-- ABORT_HOLD_EXPIRY. -/
def execAbortHoldExpiry (s : State) : Host.Outcome State Fault Refusal := onCause s State.holdOver State.endHold

/-- START_INSTANT (R102). -/
def execStartInstant (s : State) : Host.Outcome State Fault Refusal := onCause s State.startReached State.start

/-- C reaches or passes the finish deadline in RACING or FINISHED (R164). -/
def State.deadlineReached (s : State) : Bool := s.session.phase.inRace && s.passed s.session.deadline

/-- FINISH_DEADLINE. -/
def execFinishDeadline (s : State) : Host.Outcome State Fault Refusal :=
  onCause s State.deadlineReached State.checkRaceEnd

/-- C reaches or passes the race limit in RACING or FINISHED (R164). -/
def State.limitReached (s : State) : Bool := s.session.phase.inRace && s.passed s.session.limit

/-- RACE_LIMIT. -/
def execRaceLimit (s : State) : Host.Outcome State Fault Refusal := onCause s State.limitReached State.checkRaceEnd

end Sys2Proof.Machine
end

