-- ==== Sys2Proof/Machine/PortCommands.lean ====
section
/-! DEFINITION. The reset line and the Host Port: resets, transactions, events, the status read and the configuration
(11; R172 for SET PATTERN). -/

namespace Sys2Proof.Machine

/-! ## The reset line -/

/-- RESET is driven low: the part is held in reset, the bus driver is released and the host port ignores HSEL (R16,
R200; DEDUCED, assumption 11). -/
def State.hold (s : State) : State :=
  ((s.setInReset true).setBus s.bus.cutOff).setPort s.port.endTransaction

/-- RESET_ASSERT. -/
def execResetAssert (s : State) : Host.Outcome State Fault Refusal := .next s.hold

/-- The straps are sampled, every block takes its power-on state, and AUTO joins (R200, R201). -/
def State.release (s : State) (straps : Straps) : State :=
  let s1 := State.powerOn straps s.pending s.choices
  if straps.auto then s1.joinLobby else s1

/-- RESET_RELEASE. -/
def execResetRelease (station : Station) (rate auto : Bool) (s : State) : Host.Outcome State Fault Refusal :=
  .next (s.release { station := station, rate := rate, auto := auto })

/-- SOFT RESET is taken; the reset waits for HSEL to rise (R202). -/
def execSoftReset (s : State) : Host.Outcome State Fault Refusal :=
  hostCommand .softReset s fun s => (s.setPort { s.port with softReset := true }).done

/-- SOFT_RESET_ACTS: HSEL rises after SOFT RESET was taken (R202). -/
def execSoftResetActs (s : State) : Host.Outcome State Fault Refusal :=
  onCause s (fun s => s.port.softReset) State.softReset

/-! ## Transactions -/

/-- A transaction begins: COMMAND, with nothing clocked in (R187). -/
def Port.begin (p : Port) : Port := { p with state := .command, buffer := [], counted := 0, response := [] }

/-- TRANSACTION_BEGIN (R187). -/
def execTransactionBegin (s : State) : Host.Outcome State Fault Refusal :=
  onCause s (fun s => s.port.state == .idle) fun s => s.setPort s.port.begin

/-- The command of the transaction has been acted on or was unknown: RESPONSE or DISCARD (R187). -/
def Port.answered (p : Port) : Bool := p.state == .response || p.state == .discard

/-- TRANSACTION_END (R187, R191, R198). -/
def execTransactionEnd (s : State) : Host.Outcome State Fault Refusal :=
  onCause s (fun s => s.port.answered) State.raiseSelect

/-- RESPONSE_ENDED_EARLY (R190). -/
def execResponseEndedEarly (s : State) : Host.Outcome State Fault Refusal :=
  onCause s (fun s => s.port.answered) fun s => s.raiseSelect

/-- HSEL rises before the command instant, in COMMAND or between two operand bytes: the bytes clocked in are discarded and
TRUNCATED latches, unless HCLK never rose in between (R189).  A byte already counted took eight rises of HCLK, whatever
number the row carries (assumption 9). -/
def State.truncate (clocks : Nat) (s : State) : State :=
  let s1 := if clocks = 0 ∧ s.port.counted = 0 then s else s.signal .truncated
  s1.setPort s1.port.endTransaction

/-- TRUNCATED. -/
def execTruncated (clocks : Nat) (s : State) : Host.Outcome State Fault Refusal :=
  onCause s (fun s => s.port.ready) (State.truncate clocks)

/-- An unknown command byte: UNKNOWN is answered and the transaction enters DISCARD (R191). -/
def Port.discardRest (p : Port) : Port :=
  { p.emptied with state := .discard, response := [Status.unknown.code] }

/-- UNKNOWN_COMMAND. -/
def execUnknownCommand (code : Byte) (s : State) : Host.Outcome State Fault Refusal :=
  onCause s (fun s => s.port.takes (.unknownCommand code) && !namesCommand code) fun s => s.setPort s.port.discardRest

/-! ## Events and status -/

/-- READ STATUS (R199). -/
def execReadStatus (s : State) : Host.Outcome State Fault Refusal :=
  hostCommand .readStatus s fun s => s.report s.statusBytes

/-- READ EVENTS: the snapshot is formed and every since-snapshot mark is cleared (R198). -/
def State.readEvents (s : State) : Answer :=
  (s.setPort { s.port with marks := 0, readEvents := .sending s.port.latch }).report s.port.eventBytes

/-- READ EVENTS. -/
def execReadEvents (s : State) : Host.Outcome State Fault Refusal := hostCommand .readEvents s State.readEvents

/-- READ_EVENTS_END (R198). -/
def execReadEventsEnd (s : State) : Host.Outcome State Fault Refusal :=
  onCause s (fun s => s.port.state == .response && s.port.readEvents.open) fun s => s.setPort s.port.endReadEvents

/-- SET EVENT MASK: the lowest 20 bits (R196). -/
def State.setEventMask (mask : BitVec 24) (s : State) : Answer :=
  let kept := mask.extractLsb' 0 20
  (s.setPort { s.port with mask := kept }).report (be3 (kept.setWidth 24))

/-- SET EVENT MASK. -/
def execSetEventMask (mask : BitVec 24) (s : State) : Host.Outcome State Fault Refusal :=
  hostCommand (.setEventMask mask) s (State.setEventMask mask)

/-! ## Configuration -/

/-- A fade count greater than the new dropout is set to it (R35). -/
def Sender.limitFade (dropout : Nat) (x : Sender) : Sender := { x with fade := min x.fade dropout }

/-- The Link Monitor at CONFIGURE: the window ends without an evaluation and restarts (R35). -/
def Link.configured (l : Link) (c : Store) : Link :=
  let l1 := l.newWindow c.windowLength
  { l1 with senders := mapAll (Sender.limitFade c.dropout) l1.senders }

/-- CONFIGURE in OFFLINE, refused elsewhere (R35, R80, R192). -/
def State.configure (p : Parameters) (s : State) : Answer :=
  if s.session.phase = .offline then
    let c := storeOf p s.store.courses
    let s1 := ((s.setStore c).setLink (s.link.configured c)).recomputeOffer
    s1.report (c.bytes ++ [markByte [parametersClamped p c]])
  else s.refuse .phase

/-- CONFIGURE. -/
def execConfigure (p : Parameters) (s : State) : Host.Outcome State Fault Refusal :=
  hostCommand (.configure p) s (State.configure p)

/-- SET COURSE in OFFLINE, refused elsewhere (R80, R194). -/
def State.setCourse (index : Byte) (length : BitVec 32) (s : State) : Answer :=
  if s.session.phase = .offline then
    if index.toNat ≤ 7 then
      let stored := storedLength length.toNat
      ((s.setStore (s.store.withCourse index.toNat stored)).recomputeOffer).report (be4 (BitVec.ofNat 32 stored))
    else s.refuse .operand
  else s.refuse .phase

/-- SET COURSE. -/
def execSetCourse (index : Byte) (length : BitVec 32) (s : State) : Host.Outcome State Fault Refusal :=
  hostCommand (.setCourse index length) s (State.setCourse index length)

/-- SET PATTERN in OFFLINE, refused elsewhere; refused with OPERAND for an unusable index, count, step code or field code
(R172). -/
def State.setPattern (index : Byte) (steps : List (Byte × Byte)) (s : State) : Answer :=
  if s.session.phase = .offline then
    if index.toNat ≤ 7 ∧ 1 ≤ steps.length ∧ steps.length ≤ 24 then
      match ofSteps steps with
      | some list => (s.setPatterns (s.patterns.setIfInBounds index.toNat (some list))).done
      | none => s.refuse .operand
    else s.refuse .operand
  else s.refuse .phase

/-- SET PATTERN. -/
def execSetPattern (index : Byte) (steps : List (Byte × Byte)) (s : State) : Host.Outcome State Fault Refusal :=
  hostCommand (.setPattern index steps) s (State.setPattern index steps)

end Sys2Proof.Machine
end

