-- ==== Sys2Proof/Machine/Dispatch.lean ====
section
/-! DEFINITION. The effect of each command on everything but the queue: one arm per row of spec/opcode_table.json. -/

namespace Sys2Proof.Machine

def exec (i : Instr) (s : State) : Host.Outcome State Fault Refusal :=
  match i with
  | .resetAssert => Sys2Proof.Machine.execResetAssert s
  | .resetRelease station rate auto => Sys2Proof.Machine.execResetRelease station rate auto s
  | .readStatus => Sys2Proof.Machine.execReadStatus s
  | .readEvents => Sys2Proof.Machine.execReadEvents s
  | .readEventsEnd => Sys2Proof.Machine.execReadEventsEnd s
  | .setEventMask mask => Sys2Proof.Machine.execSetEventMask mask s
  | .softReset => Sys2Proof.Machine.execSoftReset s
  | .softResetActs => Sys2Proof.Machine.execSoftResetActs s
  | .configure p => Sys2Proof.Machine.execConfigure p s
  | .setCourse index length => Sys2Proof.Machine.execSetCourse index length s
  | .setPattern index steps => Sys2Proof.Machine.execSetPattern index steps s
  | .join => Sys2Proof.Machine.execJoin s
  | .leave => Sys2Proof.Machine.execLeave s
  | .newRace => Sys2Proof.Machine.execNewRace s
  | .setOffer courses laps options => Sys2Proof.Machine.execSetOffer courses laps options s
  | .setReady => Sys2Proof.Machine.execSetReady s
  | .clearReady => Sys2Proof.Machine.execClearReady s
  | .readLobby => Sys2Proof.Machine.execReadLobby s
  | .readCountdown => Sys2Proof.Machine.execReadCountdown s
  | .readClock => Sys2Proof.Machine.execReadClock s
  | .readPeer station => Sys2Proof.Machine.execReadPeer station s
  | .freeze => Sys2Proof.Machine.execFreeze s
  | .thaw => Sys2Proof.Machine.execThaw s
  | .clearFaults => Sys2Proof.Machine.execClearFaults s
  | .postCar p => Sys2Proof.Machine.execPostCar p s
  | .readCars => Sys2Proof.Machine.execReadCars s
  | .proxOn => Sys2Proof.Machine.execProxOn s
  | .proxOff => Sys2Proof.Machine.execProxOff s
  | .readProx => Sys2Proof.Machine.execReadProx s
  | .readStandings start count => Sys2Proof.Machine.execReadStandings start count s
  | .readLine place pattern => Sys2Proof.Machine.execReadLine place pattern s
  | .unknownCommand code => Sys2Proof.Machine.execUnknownCommand code s
  | .truncated clocks => Sys2Proof.Machine.execTruncated clocks s
  | .responseEndedEarly => Sys2Proof.Machine.execResponseEndedEarly s
  | .framePeriodExpiry => Sys2Proof.Machine.execFramePeriodExpiry s
  | .lineActivity => Sys2Proof.Machine.execLineActivity s
  | .startMark => Sys2Proof.Machine.execStartMark s
  | .lineIdle run => Sys2Proof.Machine.execLineIdle run s
  | .deferralSlot => Sys2Proof.Machine.execDeferralSlot s
  | .collision index echo => Sys2Proof.Machine.execCollision index echo s
  | .txSuccess echo => Sys2Proof.Machine.execTxSuccess echo s
  | .windowExpiry => Sys2Proof.Machine.execWindowExpiry s
  | .debtPayment => Sys2Proof.Machine.execDebtPayment s
  | .freezeTimerExpiry => Sys2Proof.Machine.execFreezeTimerExpiry s
  | .abortHoldExpiry => Sys2Proof.Machine.execAbortHoldExpiry s
  | .sweepStep => Sys2Proof.Machine.execSweepStep s
  | .startInstant => Sys2Proof.Machine.execStartInstant s
  | .finishDeadline => Sys2Proof.Machine.execFinishDeadline s
  | .raceLimit => Sys2Proof.Machine.execRaceLimit s
  | .transactionBegin => Sys2Proof.Machine.execTransactionBegin s
  | .transactionEnd => Sys2Proof.Machine.execTransactionEnd s

end Sys2Proof.Machine
end

