-- ==== Sys2Proof/Machine/Idle.lean ====
section
/-! DEFINITION. What goes on when no command waits: one of the part's own events that has fallen due is taken, a byte of the
open transaction is clocked in, or one microsecond of T passes (assumptions 6 and 9). -/

namespace Sys2Proof.Machine

/-- An event listed when it is due. -/
def whenDue (due : Bool) (c : Instr) : List Instr := if due then [c] else []

/-- The part's own events that are due now: the timers that have run out (R8, R22, R67, R100, R135) and the instants that C
has reached (R102, R164). -/
def State.dueEvents (s : State) : List Instr :=
  whenDue s.periodOver .framePeriodExpiry ++ whenDue s.windowOver .windowExpiry ++
    whenDue s.freezeOver .freezeTimerExpiry ++ whenDue s.holdOver .abortHoldExpiry ++
    whenDue s.sweepDue .sweepStep ++ whenDue s.startReached .startInstant ++
    whenDue s.deadlineReached .finishDeadline ++ whenDue s.limitReached .raceLimit

/-- One of the due events, by a free value: "either may be taken first" (assumption 3).  A byte that is complete on HDI
stands in the choice after them: none where it is taken first, and none where no event is due. -/
def State.chosenEvent (s : State) : Option Instr :=
  s.dueEvents[s.pick Config.eventOrder (s.dueEvents.length + s.port.byteDue.toNat)]?

/-- The next byte on HDI is complete.  Where the bytes clocked in with it spell a command, its command instant has come and
the command is judged there (R188), an unknown command byte among them (R191); else operand bytes are due, and the state is
OPERANDS (R187). -/
def State.clockByte (s : State) : Host.Outcome State Fault Refusal :=
  match s.port.hdi with
  | [] => .next s
  | x :: rest =>
    let s1 := s.setPort { s.port with hdi := rest }
    match decodeCommand (s1.port.bytes ++ [x.value]) with
    | some c => exec c s1
    | none => .next (s1.setPort (s1.port.clockIn x.value))

/-- The block's own move.  While RESET is low nothing moves (R200).  An own event that is due and a byte that is complete on
HDI are taken before T moves on, one of them by a free value; otherwise one microsecond of T passes, and the payment of R49
is made in it when it falls due. -/
def idle (s : State) : Host.Outcome State Fault Refusal :=
  if s.inReset then .next s
  else
    match s.chosenEvent with
    | some c => exec c s.picked
    | none =>
      if s.port.byteDue then s.picked.clockByte
      else if s.paymentDue then exec .debtPayment s
      else .next s.microsecond

end Sys2Proof.Machine
end

