-- ==== Sys2Proof/Safety.lean ====
section
/-! DEFINITION. What counts as a safe state of one OW-16: the whole-machine promises of the manual's prose, in the terms the
statements use, and the commands that reset the part. -/

namespace Sys2Proof.Machine

/-! ## Resets -/

/-- This command resets the part at this state: the release of the reset pin (R200), or a rise of HSEL after SOFT RESET was
taken (R202). -/
def State.resetBy (s : State) (i : Instr) : Prop :=
  (∃ station rate auto, i = .resetRelease station rate auto) ∨
    (s.port.softReset = true ∧ (i = .softResetActs ∨ i = .transactionEnd ∨ i = .responseEndedEarly))

/-! ## Transactions (R187, R188) -/

/-- The command instant of this command can come: RESET is high, a transaction is open whose command has not been acted on,
and the bytes clocked in so far, none in COMMAND, are the first of the command's bytes. -/
def State.hears (s : State) (i : Instr) : Prop := s.inReset = false ∧ s.port.takes i = true

/-- The state with the answer of a command standing in the Host Port, and nothing else moved. -/
def State.answering (s : State) (status : Status) (bytes : List Byte) : State :=
  s.setPort { s.port with
    state := .response, hdi := [], buffer := [], counted := 0, response := status.code :: bytes }

/-- The transaction state is as R187 gives it: bytes are held only before the command instant, none of them in COMMAND, and
in OPERANDS the command byte names a command and operand bytes of it are due; the buffer holds the first 51 (R172). -/
structure Port.TransactionOk (p : Port) : Prop where
  stored : p.buffer.length = min p.counted Config.bufferDepth
  closed : p.ready = false → p.counted = 0
  command : p.state = .command → p.counted = 0
  operands : p.state = .operands → ∃ code operands, p.bytes = code :: operands ∧ namesCommand code = true ∧
    operands.length < operandLength code operands

/-! ## The configuration store (R192, R194) -/

/-- Every parameter stands in its range, and every course is absent or 50,000 to 8,000,000 tu long. -/
structure Store.InRange (c : Store) : Prop where
  period : 2000 ≤ c.period ∧ c.period ≤ 8000 ∧ c.period % 500 = 0
  window : 8 ≤ c.window ∧ c.window ≤ 32
  on : 1 ≤ c.on ∧ c.on ≤ c.window
  off : c.off ≤ c.on
  dropout : 1 ≤ c.dropout ∧ c.dropout ≤ 8
  horizon : 50000 ≤ c.horizon ∧ c.horizon ≤ 1000000
  blend : c.blend ≤ 200000
  snap : 50 ≤ c.snap ∧ c.snap ≤ 5000
  startLead : 3000000 ≤ c.startLead ∧ c.startLead ≤ 10000000
  finishWindow : 10 ≤ c.finishWindow ∧ c.finishWindow ≤ 120
  dnfTimeout : 2 ≤ c.dnfTimeout ∧ c.dnfTimeout ≤ 30
  linkDelay : c.linkDelay ≤ 50
  slew : 10 ≤ c.slew ∧ c.slew ≤ 500
  lockBound : 50 ≤ c.lockBound ∧ c.lockBound ≤ 1000
  sweepGap : 250 ≤ c.sweepGap ∧ c.sweepGap ≤ 2000
  contactLength : 100 ≤ c.contactLength ∧ c.contactLength ≤ 1000
  contactWidth : 5 ≤ c.contactWidth ∧ c.contactWidth ≤ 50
  draftLength : 500 ≤ c.draftLength ∧ c.draftLength ≤ 6000
  draftWidth : 2 ≤ c.draftWidth ∧ c.draftWidth ≤ 30
  courses : ∀ n ∈ c.courses.toList, n = 0 ∨ (50000 ≤ n ∧ n ≤ 8000000)

/-! ## The Receive Queue (R57, R60) -/

/-- The queue holds at most 8 entries and no two from one sender, and it is empty while the table is not frozen. -/
structure Table.QueueOk (t : Table) : Prop where
  length : t.queue.length ≤ Config.queueDepth
  senders : (t.queue.map Frame.sender).Nodup
  empty : t.freeze = none → t.queue = []

/-! ## The own station as a sender (R24, R55, R134) -/

/-- The own station's sender record, Peer Table entry and proximity entry stand at their reset values, and no frame under
the own number waits in the queue. -/
structure State.OwnQuiet (s : State) : Prop where
  sender : s.link.at s.own = Sender.powerOn
  entry : s.table.at s.own = Entry.empty
  proximity : s.prox.at s.own = ProxEntry.clear
  queue : ∀ f ∈ s.table.queue, f.sender ≠ s.own

/-! ## The Race Clock (R43, R48, R49) -/

/-- The payment count is 0 to 7, and 0 without a debt; the debt never exceeds the slew; in OFFLINE the clock is FREE with
k = 0 and no debt. -/
structure State.ClockOk (s : State) : Prop where
  payment : s.clock.payment ≤ 7
  idle : s.clock.debt = 0 → s.clock.payment = 0
  debt : s.clock.debt ≤ s.store.slew
  offline : s.session.phase = .offline → s.clock.state = .free ∧ s.clock.k = 0 ∧ s.clock.debt = 0

/-! ## The session (R8, R72, R84, R88, R99, R107 to R109, R135, R152) -/

/-- PROPOSING and every later phase of a session: a roster stands and the rule is held (R84, R92). -/
def Phase.rostered : Phase → Bool
  | .proposing => true
  | .armed => true
  | .racing => true
  | .finished => true
  | .results => true
  | .offline => false
  | .lobby => false

/-- ARMED and every later phase of a session: a start is agreed (R97, R102). -/
def Phase.agreed : Phase → Bool
  | .armed => true
  | .racing => true
  | .finished => true
  | .results => true
  | .offline => false
  | .lobby => false
  | .proposing => false

/-- What stands and what is absent in each phase. -/
structure State.SessionOk (s : State) : Prop where
  roster : s.session.roster.isSome = s.session.phase.rostered
  held : s.session.held = s.session.phase.rostered
  rule : s.session.phase.rostered = true → s.session.rule.isSome = true
  offlineRule : s.session.phase = .offline → s.session.rule = none
  ready : s.session.phase.rostered = true → s.session.ready = true
  offlineReady : s.session.phase = .offline → s.session.ready = false
  agreed : s.session.agreed.isSome = s.session.phase.agreed
  tag : (s.session.tag != 0) = s.session.phase.agreed
  record : s.motion.live.isSome = s.session.phase.agreed
  hold : s.session.abortHold.isSome = true → s.session.phase = .lobby
  period : s.bus.period.isSome = (s.session.phase != .offline)
  starters : ∀ st, (s.standings.at st).isSome =
    (s.session.phase.hasStandings && member (s.session.roster.getD 0) st)
  final : s.standings.final.isSome = (s.session.phase == .results)
  overAt : s.standings.overAt.isSome = (s.session.phase == .results)
  cause : s.standings.cause.isSome = (s.session.phase == .results)
  limit : s.session.limit.isSome = s.session.phase.inRace
  deadline : s.session.deadline.isSome = true → s.session.phase.inRace = true
  sweep : s.prox.timer.isSome = (s.session.phase == .racing && s.prox.enabled)
  freeze : s.table.freeze.isSome = true → s.session.phase ≠ .offline
  frozen : s.motion.frozen.isSome = true → s.table.freeze.isSome = true

/-! ## A safe state -/

/-- All of it together. -/
structure State.Safe (s : State) : Prop where
  port : s.port.TransactionOk
  store : s.store.InRange
  queue : s.table.QueueOk
  own : s.OwnQuiet
  clock : s.ClockOk
  session : s.SessionOk

end Sys2Proof.Machine
end

