-- ==== Sys2Proof/WellFormed.lean ====
section
/-! DEFINITION. Well-formed commands: what the constructors' types do not say.  A step count is one byte (R172), an unknown
command's byte names no command (R191), and a byte of a frame stands within the longest frame of 27 bytes (R4). -/

namespace Sys2Proof

/-- The checks on one command. -/
def Instr.wellFormed : Instr → Bool
  | .setPattern _ steps => decide (steps.length ≤ 255)
  | .unknownCommand code => !namesCommand code
  | .collision index _ => decide (index < 27)
  | .resetAssert => true
  | .resetRelease _ _ _ => true
  | .readStatus => true
  | .readEvents => true
  | .readEventsEnd => true
  | .setEventMask _ => true
  | .softReset => true
  | .softResetActs => true
  | .configure _ => true
  | .setCourse _ _ => true
  | .join => true
  | .leave => true
  | .newRace => true
  | .setOffer _ _ _ => true
  | .setReady => true
  | .clearReady => true
  | .readLobby => true
  | .readCountdown => true
  | .readClock => true
  | .readPeer _ => true
  | .freeze => true
  | .thaw => true
  | .clearFaults => true
  | .postCar _ => true
  | .readCars => true
  | .proxOn => true
  | .proxOff => true
  | .readProx => true
  | .readStandings _ _ => true
  | .readLine _ _ => true
  | .truncated _ => true
  | .responseEndedEarly => true
  | .framePeriodExpiry => true
  | .lineActivity => true
  | .startMark => true
  | .lineIdle _ => true
  | .deferralSlot => true
  | .txSuccess _ => true
  | .windowExpiry => true
  | .debtPayment => true
  | .freezeTimerExpiry => true
  | .abortHoldExpiry => true
  | .sweepStep => true
  | .startInstant => true
  | .finishDeadline => true
  | .raceLimit => true
  | .transactionBegin => true
  | .transactionEnd => true

end Sys2Proof
end

