-- ==== Sys2Proof/Certificates/Slice0/Obligations.lean ====
section
/-! DEFINITION. The statements for the provers. -/

open Sys2Proof Sys2Proof.Machine

/-! ## Steps and commands -/

/-- A step takes the command at the front of the queue and runs `exec` on it with the queue's rest. The queue is the
model's own (assumption 21). -/
def Obligations.StepRunsTheFrontCommand : Prop :=
  ∀ (c : Instr) (rest : List Instr) (s : State), s.pending = c :: rest → step s = exec c (s.setPending rest)

/-- On an empty queue an own event that is due, or a byte of the open transaction that is complete on HDI, is taken
first, which of several being free; with none of them a payment of the debt that is due is the step, and else one
microsecond of T passes: every timer that runs on T counts down, the host's next byte is nearer by as much, and nothing
else moves (R39, R41, R49; assumptions 3, 6 and 9). While RESET is low nothing moves (R200). That a step on an empty
queue is a byte or a microsecond is the model's choice (assumptions 6 and 9). -/
def Obligations.IdleStepMovesTheBlock : Prop :=
  (∀ s : State, s.pending = [] → s.inReset = false → s.dueEvents = [] → s.port.byteDue = false → s.paymentDue = false →
     ∃ t, step s = .next t ∧ t.now = s.now + 1 ∧
       t.clock = { s.clock with
         t := s.clock.t + 1, payment := if 0 < s.clock.debt then s.clock.payment + 1 else s.clock.payment } ∧
       t.bus = { s.bus with period := s.bus.period.map (· - 1) } ∧
       t.link = { s.link with window := s.link.window - 1 } ∧
       t.table = { s.table with freeze := s.table.freeze.map fun f => { f with left := f.left - 1 } } ∧
       t.session = { s.session with abortHold := s.session.abortHold.map (· - 1) } ∧
       t.prox = { s.prox with timer := s.prox.timer.map (· - 1) } ∧
       t.port = { s.port with hdi := match s.port.ready, s.port.hdi with
         | true, x :: rest => { x with wait := x.wait - 1 } :: rest
         | _, bytes => bytes } ∧
       t.pending = [] ∧ t.choices = s.choices ∧ t.inReset = false ∧ t.straps = s.straps ∧ t.store = s.store ∧
       t.motion = s.motion ∧ t.standings = s.standings ∧ t.patterns = s.patterns) ∧
  (∀ s : State, s.pending = [] → s.inReset = false → s.dueEvents ≠ [] →
     (∃ c ∈ s.dueEvents, step s = exec c s.picked) ∨ (s.port.byteDue = true ∧ step s = s.picked.clockByte)) ∧
  (∀ s : State, s.pending = [] → s.inReset = false → s.dueEvents = [] → s.port.byteDue = true →
     step s = s.picked.clockByte) ∧
  (∀ p : Port, p.byteDue = true ↔ p.ready = true ∧ ∃ b rest, p.hdi = { wait := 0, value := b } :: rest) ∧
  (∀ s : State, s.pending = [] → s.inReset = false → s.dueEvents = [] → s.port.byteDue = false →
     s.paymentDue = true → step s = exec .debtPayment s) ∧
  (∀ s : State, s.pending = [] → s.inReset = true → step s = .next s)

/-! ## Resets -/

/-- What the release of the reset pin leaves: with AUTO sampled as 0 every block at its power-on state (R16, R21, R36,
R54, R70, R72, R134, R152, R171, R193, R200, R203); with AUTO sampled as 1 the part has joined by itself besides: LOBBY
with its rule, the period timer at one P and RULE_CHANGE latched, and all else at its power-on state (R201). That no
run is open on the line at the release is the model's reading (assumption 8). -/
def Obligations.ReleaseGivesThePowerOnState : Prop :=
  (∀ (st : Station) (rate : Bool) (s : State), ∃ t, exec (.resetRelease st rate false) s = .next t ∧
     t.inReset = false ∧ t.pending = s.pending ∧ t.choices = s.choices ∧
     t.straps = { station := st, rate := rate, auto := false } ∧
     t.store = Store.default ∧ (∀ i (h : i < 8), t.store.courses[i] = if i = 0 then 300000 else 0) ∧
     t.bus.line = .busy ∧ t.bus.run = .closed ∧ t.bus.period = none ∧ t.bus.tx = .idle ∧
     t.bus.badFrames = 0 ∧ t.bus.collisions = 0 ∧ t.bus.dropped = 0 ∧
     t.link.window = 64000 ∧
     (∀ x, t.link.at x =
       { count := 0, presence := .absent, fade := 0, expiry := 0, lostAt := none, chatter := false, sample := none }) ∧
     t.clock = { t := 0, k := 0, debt := 0, payment := 0, state := .free } ∧ t.now = 0 ∧
     (∀ x, t.table.at x = { beacon := none, car := none, residual := 0, blendStart := 0, lastKind := .none }) ∧
     t.table.queue = [] ∧ t.table.freeze = none ∧ t.table.merges = 0 ∧ t.table.overruns = 0 ∧
     t.session.phase = .offline ∧ t.session.ready = false ∧ t.session.abortHold = none ∧
     t.session.hostOffer = { courses := 0xFF#8, laps := 0xF#4, options := 3#2 } ∧
     t.session.effective = { courses := 1#8, laps := 0xF#4, options := 3#2 } ∧
     (∀ x, member t.session.lobbySet x = decide (x = st)) ∧ t.session.rule = none ∧ t.session.held = false ∧
     t.session.roster = none ∧ (∀ x, t.session.proposalOf x = none) ∧ t.session.agreed = none ∧ t.session.tag = 0 ∧
     t.session.lastAbort = none ∧ t.session.earliest = none ∧ t.session.deadline = none ∧ t.session.limit = none ∧
     t.motion.live = none ∧ t.motion.frozen = none ∧
     t.prox.enabled = true ∧ t.prox.position = 0 ∧ t.prox.timer = none ∧
     (∀ x, t.prox.at x = { state := .clear, closing := 0 }) ∧
     (∀ x, t.standings.at x = none) ∧ t.standings.final = none ∧ t.standings.overAt = none ∧
     t.standings.cause = none ∧ (∀ i (h : i < 8), t.patterns[i] = none) ∧
     t.port.state = .idle ∧ t.port.latch = 0 ∧ t.port.mask = 0 ∧ t.port.marks = 0 ∧
     t.session.cleardownMark = false ∧ t.port.hdi = [] ∧ t.port.buffer = [] ∧ t.port.counted = 0 ∧
     t.port.response = [] ∧ t.port.readEvents = .none ∧
     t.port.softReset = false ∧ (∀ i (h : i < 9), t.port.details[i] = 0) ∧ t.attention = false) ∧
  (∀ (st : Station) (rate : Bool) (s : State), ∃ t, exec (.resetRelease st rate true) s = .next t ∧
     t.straps = { station := st, rate := rate, auto := true } ∧ t.session.phase = .lobby ∧
     t.bus.period = some 4000 ∧ t.bus.badFrames = 0 ∧ t.bus.collisions = 0 ∧ t.bus.dropped = 0 ∧
     t.store = Store.default ∧ t.session.effective = { courses := 1#8, laps := 0xF#4, options := 3#2 } ∧
     t.session.rule = some { course := 0#3, lapCode := 3#2, options := 3#2 } ∧ t.laps = 5 ∧ t.courseLength = 300000 ∧
     t.port.latched .ruleChange = true ∧ t.port.mask = 0 ∧ t.attention = false ∧ t.now = 0 ∧
     let on := State.powerOn { station := st, rate := rate, auto := true } s.pending s.choices
     t = ((on.setSession { on.session with
       phase := .lobby, rule := some { course := 0#3, lapCode := 3#2, options := 3#2 } }).setBus
         { on.bus with period := some 4000 }).setPort { on.port with latch := 0x40#20 })

/-- RESET driven low releases the line driver and ends the transaction; while it is low no command but the two of the
reset line changes anything, ATTN is deasserted, and HDO is released (R16, R187, R200). A command with no transaction
waiting for it, or whose bytes are not those clocked in, is ignored (R187, R188, R191). That the rest of the state
stands through the hold is the model's reading (assumption 11), and that a command out of turn is ignored whole its
choice (assumptions 5 and 9). -/
def Obligations.HeldInResetNothingMoves : Prop :=
  (∀ s : State, ∃ t, exec .resetAssert s = .next t ∧ t.inReset = true ∧ t.attention = false ∧
     t.bus = { s.bus with tx := .idle } ∧ t.port.state = .idle ∧ t.port.hdi = [] ∧ t.port.buffer = [] ∧
     t.port.counted = 0 ∧ t.port.response = [] ∧ t.port.latch = s.port.latch ∧
     t.pending = s.pending ∧ t.choices = s.choices ∧ t.straps = s.straps ∧ t.store = s.store ∧ t.link = s.link ∧
     t.clock = s.clock ∧ t.table = s.table ∧ t.session = s.session ∧ t.motion = s.motion ∧ t.prox = s.prox ∧
     t.standings = s.standings ∧ t.patterns = s.patterns) ∧
  ((∀ (i : Instr) (s : State), s.inReset = true → (∀ st r a, i ≠ .resetRelease st r a) → i ≠ .resetAssert →
     exec i s = .next s) ∧
   (∀ s : State, s.inReset = true → s.attention = false ∧ ∀ n, s.hdo n = none)) ∧
  (∀ (i : Instr) (s : State) (bs : List Byte), commandBytes i = some bs → ¬ s.hears i → exec i s = .next s)

/-- SOFT RESET is taken in every phase and only marked; the rise of HSEL then gives the power-on state with the straps
as sampled, in OFFLINE whatever AUTO holds (R202). That the rise may be given as any of the three events is the model's
choice (assumption 10). -/
def Obligations.SoftResetActsAtTheRise : Prop :=
  (∀ s : State, s.hears .softReset →
    exec .softReset s = .next ((s.setPort { s.port with softReset := true }).answering .ok [])) ∧
  (∀ (i : Instr) (s : State), s.inReset = false → s.port.softReset = true → s.port.answered = true →
    (i = .softResetActs ∨ i = .transactionEnd ∨ i = .responseEndedEarly) →
    exec i s = .next (State.powerOn s.straps s.pending s.choices)) ∧
  (∀ (straps : Straps) (q : List Instr) (n : Nat), (State.powerOn straps q n).session.phase = .offline ∧
    (State.powerOn straps q n).now = 0 ∧ (State.powerOn straps q n).straps = straps)

/-! ## The Host Port -/

/-- The transaction state moves as R187 gives it: COMMAND from the fall of HSEL; OPERANDS from a command byte, and from
each operand byte, that leaves operand bytes due; RESPONSE from the command instant, which the last byte is, or DISCARD
where the command byte names no command; IDLE at the rise of HSEL (R187, R188, R190, R191, R198). A rise before the
command instant, between two operand bytes too, discards the bytes clocked in and latches TRUNCATED unless HCLK never
rose (R189). No other event moves the transaction, so that the part's own events may fall between two bytes; the bytes
held are those the transaction state calls for, 51 at most (R172, R187). HDO carries 0xFF until the command instant,
then the status byte, the response and 0xFF after it (R187, R188). That the bytes wait in `hdi` and come at the host's
pace, and that HDO is released with HSEL high, is the model's (assumption 9), and that both ends are taken in RESPONSE
and DISCARD its choice (assumption 10). -/
def Obligations.TransactionsOpenAndClose : Prop :=
  (∀ s : State, s.inReset = false → s.port.state = .idle →
    exec .transactionBegin s = .next (s.setPort
      { s.port with state := .command, buffer := [], counted := 0, response := [] }) ∧
    ∀ n, s.hdo n = none) ∧
  (∀ (s : State) (n : Nat), s.inReset = false → s.port.ready = true → s.hdo n = some 0xFF#8) ∧
  (∀ (s : State) (x : HdiByte) (rest : List HdiByte), s.port.hdi = x :: rest →
    (decodeCommand (s.port.bytes ++ [x.value]) = none →
      s.clockByte = .next (s.setPort { s.port with
        state := .operands, hdi := rest, buffer := (s.port.buffer ++ [x.value]).take 51,
        counted := s.port.counted + 1 })) ∧
    ∀ c, decodeCommand (s.port.bytes ++ [x.value]) = some c →
      s.clockByte = exec c (s.setPort { s.port with hdi := rest }) ∧
      (s.inReset = false → s.port.ready = true → (s.setPort { s.port with hdi := rest }).hears c)) ∧
  (∀ (i : Instr) (s t : State) (bs : List Byte), i.wellFormed = true → commandBytes i = some bs → s.hears i →
    exec i s = .next t → t.port.hdi = [] ∧ t.port.buffer = [] ∧ t.port.counted = 0 ∧
      ((∃ code, i = .unknownCommand code) → t.port.state = .discard) ∧
      ((∀ code, i ≠ .unknownCommand code) → t.port.state = .response)) ∧
  (∀ (s : State) (status : Status) (bytes : List Byte), s.inReset = false →
    (s.answering status bytes).hdo 0 = some status.code ∧
    ∀ n, (s.answering status bytes).hdo (n + 1) = some (bytes.getD n 0xFF#8)) ∧
  (∀ (i : Instr) (s : State), s.inReset = false → s.port.answered = true → s.port.softReset = false →
    (i = .transactionEnd ∨ i = .responseEndedEarly) →
    exec i s = .next (s.setPort { s.port with
      state := .idle, hdi := [], buffer := [], counted := 0, response := [], marks := 0, readEvents := .none })) ∧
  (∀ (n : Nat) (s : State), s.inReset = false → s.port.ready = true → ∃ t, exec (.truncated n) s = .next t ∧
    t = s.setPort t.port ∧ t.port.state = .idle ∧ t.port.hdi = [] ∧ t.port.buffer = [] ∧ t.port.counted = 0 ∧
    t.port.response = [] ∧ t.port.marks = 0 ∧ t.port.mask = s.port.mask ∧ t.port.details = s.port.details ∧
    t.port.latch = if n = 0 ∧ s.port.counted = 0 then s.port.latch else s.port.latch ||| 0x40000#20) ∧
  (∀ (i : Instr) (s t : State), exec i s = .next t → commandBytes i = none → i ≠ .resetAssert →
    (∀ st r a, i ≠ .resetRelease st r a) → i ≠ .transactionBegin → (∀ n, i ≠ .truncated n) →
    i ≠ .transactionEnd → i ≠ .responseEndedEarly → i ≠ .softResetActs →
    t.port.state = s.port.state ∧ t.port.buffer = s.port.buffer ∧ t.port.counted = s.port.counted ∧
      t.port.response = s.port.response ∧ (i ≠ .debtPayment → t.port.hdi = s.port.hdi)) ∧
  (∀ s t : State, s.port.TransactionOk → step s = .next t → t.port.TransactionOk)

/-- A command byte that names no command, 0x00 and 0xFF among them, is answered UNKNOWN, moves the transaction to
DISCARD and changes nothing else; every byte after the status byte reads 0xFF; what is clocked in after it is ignored;
and a rise of HSEL in DISCARD latches nothing (R191). The codes are those of the command code table. -/
def Obligations.UnknownCommandIsDiscarded : Prop :=
  (∀ (code : Byte) (s : State), s.hears (.unknownCommand code) → namesCommand code = false →
     ∃ t, exec (.unknownCommand code) s = .next t ∧
    t = s.setPort { s.port with
      state := .discard, hdi := [], buffer := [], counted := 0, response := [0x0F#8] } ∧
    t.port.hdo 0 = 0x0F#8 ∧ ∀ n, 1 ≤ n → t.port.hdo n = 0xFF#8) ∧
  (∀ code : Byte, namesCommand code = true ↔ code ∈
    ([0x01, 0x02, 0x03, 0x04, 0x08, 0x09, 0x0A, 0x10, 0x11, 0x12, 0x13, 0x14, 0x15, 0x16, 0x17, 0x20, 0x21, 0x22, 0x23,
      0x24, 0x30, 0x31, 0x38, 0x39, 0x3A, 0x40, 0x41] : List Byte)) ∧
  (∀ (i : Instr) (s : State) (bs : List Byte), s.port.state = .discard → commandBytes i = some bs →
    exec i s = .next s) ∧
  (∀ s : State, s.inReset = false → s.port.state = .discard → s.port.softReset = false →
    ∃ t, exec .transactionEnd s = .next t ∧ t = s.setPort t.port ∧ t.port.state = .idle ∧ t.port.latch = s.port.latch)

/-- READ EVENTS forms the snapshot, clears every since-snapshot mark, and answers the latched set and the nine detail
stations; when its last byte has been clocked out, each kind of the snapshot whose mark is clear is cleared (R198). -/
def Obligations.ReadEventsClearsWhatItReported : Prop :=
  (∀ s : State, s.hears .readEvents →
    exec .readEvents s = .next ((s.setPort { s.port with marks := 0, readEvents := .sending s.port.latch }).answering .ok
      ([(s.port.latch.extractLsb' 16 4).setWidth 8, s.port.latch.extractLsb' 8 8, s.port.latch.extractLsb' 0 8] ++
        s.port.details.toList.map fun st => BitVec.ofNat 8 st.val))) ∧
  (∀ (s : State) (snapshot : BitVec 20), s.inReset = false → s.port.state = .response →
    s.port.readEvents = .sending snapshot → ∃ t, exec .readEventsEnd s = .next t ∧ t = s.setPort t.port ∧
      t.port = { s.port with latch := t.port.latch, readEvents := .sent } ∧
      ∀ e : Event, t.port.latched e =
        (s.port.latched e && (!snapshot.getLsbD e.bit || s.port.marks.getLsbD e.bit)))

/-- An occurrence sets its flag whatever the mask holds, takes the station as the kind's detail, and sets the kind's
since-snapshot mark exactly during the response of a READ EVENTS; every other flag, detail and mark stays (R195). A
latched flag stays set until READ EVENTS clears it or the part is reset (R195, R198). -/
def Obligations.EventsLatchAndStay : Prop :=
  (∀ (p : Port) (e : Event) (st : Option Station),
     (∀ e' : Event, (p.occur e st).latched e' = (p.latched e' || decide (e' = e))) ∧
     (∀ e' : Event, (p.occur e st).marks.getLsbD e'.bit =
       (p.marks.getLsbD e'.bit || (p.readEvents.open && decide (e' = e)))) ∧
     (∀ i : Fin 9, (p.occur e st).details[i] = if e.detail = some i then st.getD p.details[i] else p.details[i]) ∧
     (p.occur e st).mask = p.mask ∧ (p.occur e st).response = p.response ∧ (p.occur e st).state = p.state) ∧
  (∀ (i : Instr) (s t : State) (e : Event), exec i s = .next t → i ≠ .readEventsEnd → ¬ s.resetBy i →
     s.port.latched e = true → t.port.latched e = true)

/-- SET EVENT MASK is taken in every phase, stores the lowest 20 bits and answers the mask as stored with the unused
bits 0, the attention line following at once; the resets empty the mask, and no other command or event changes it
(R196). -/
def Obligations.SetEventMaskStoresTwentyBits : Prop :=
  (∀ (mask : BitVec 24) (s : State), s.hears (.setEventMask mask) → ∃ t, exec (.setEventMask mask) s = .next t ∧
     t = (s.setPort { s.port with mask := t.port.mask }).answering .ok
       [mask.extractLsb' 16 8 &&& 0x0F#8, mask.extractLsb' 8 8, mask.extractLsb' 0 8] ∧
     (∀ i, i < 20 → t.port.mask.getLsbD i = mask.getLsbD i) ∧
     (t.attention = true ↔ ∃ e : Event, s.port.latched e = true ∧ mask.getLsbD e.bit = true)) ∧
  (∀ (c : Instr) (s : State),
    ((∃ station rate auto, c = .resetRelease station rate auto) ∨ (s.inReset = false ∧ s.port.softReset = true ∧
      s.port.answered = true ∧ (c = .softResetActs ∨ c = .transactionEnd ∨ c = .responseEndedEarly))) →
    ∃ t, exec c s = .next t ∧ t.port.mask = 0) ∧
  (∀ (i : Instr) (s t : State), exec i s = .next t → ¬ s.resetBy i → (∀ mask, i ≠ .setEventMask mask) →
     t.port.mask = s.port.mask)

/-- READ STATUS, READ CLOCK, READ PROX and READ LOBBY answer the fields of their rules in the order of the formats
section and change nothing else (R51, R90, R150, R199). -/
def Obligations.ReportsAnswerTheFields : Prop :=
  (∀ s : State, s.hears .readStatus → exec .readStatus s = .next (s.answering .ok
    ([s.session.phase.code, s.clock.state.code, BitVec.ofNat 8 s.straps.station.val,
        (if s.straps.rate then 1#8 else 0#8) ||| (if s.straps.auto then 2#8 else 0#8), s.bus.tx.code,
        if s.table.freeze.isSome then 1#8 else 0#8] ++
      be4 (match s.table.freeze with
        | some f => f.view
        | none => 0) ++
      [BitVec.ofNat 8 s.table.queue.length] ++ be2 s.bus.badFrames ++ be2 s.bus.collisions ++ be2 s.bus.dropped ++
      be2 s.table.merges ++ be2 s.table.overruns ++ [if s.port.latch &&& s.port.mask = 0 then 0#8 else 1#8]))) ∧
  (∀ (s : State) (elapsed : Option Time), s.hears .readClock →
    (((s.session.phase = .armed ∨ s.session.phase.inRace = true) ∧
        ∃ start, s.session.agreed = some start ∧ elapsed = some (s.now - start)) ∨
      (s.session.phase = .results ∧
        ∃ start ended, s.session.agreed = some start ∧ s.standings.overAt = some ended ∧ elapsed = some (ended - start)) ∨
      ((s.session.phase = .offline ∨ s.session.phase = .lobby ∨ s.session.phase = .proposing) ∧ elapsed = none)) →
    exec .readClock s = .next (s.answering .ok
      (be4 s.now ++ [s.clock.state.code] ++ be2 (BitVec.ofNat 16 s.clock.debt) ++
        (match elapsed with
          | some e => 1#8 :: be4 e
          | none => [0, 0, 0, 0, 0])))) ∧
  (∀ s : State, s.hears .readProx →
    let held : BitVec 2 := if s.session.held then (match s.session.rule with
      | some r => r.options
      | none => 0) else 0
    exec .readProx s = .next (s.answering .ok
    ([(if s.prox.enabled then 1#8 else 0#8) |||
          (if s.session.phase = .racing ∧ s.prox.enabled = true then 2#8 else 0#8) |||
          (if held.getLsbD 0 then 4#8 else 0#8) ||| (if held.getLsbD 1 then 8#8 else 0#8),
        BitVec.ofNat 8 s.prox.position.val] ++
      s.prox.peers.toList.flatMap (fun x => (match x.state with
        | .clear => 0#8
        | .draft => 1#8
        | .contact => 2#8) :: be2 (BitVec.ofInt 16 x.closing))))) ∧
  (∀ s : State, s.hears .readLobby → exec .readLobby s = .next (s.answering .ok
    ([s.session.phase.code,
        (if s.session.ready then 1#8 else 0#8) ||| (if s.session.abortHold.isSome then 2#8 else 0#8) |||
          (if s.session.roster.isSome then 4#8 else 0#8) ||| (if s.session.rule = none then 8#8 else 0#8) |||
          (if s.session.held then 16#8 else 0#8),
        s.session.hostOffer.courses, s.session.hostOffer.laps.setWidth 8, s.session.hostOffer.options.setWidth 8,
        s.store.operator.courses, s.store.operator.laps.setWidth 8, s.store.operator.options.setWidth 8,
        s.store.installed,
        s.session.effective.courses, s.session.effective.laps.setWidth 8, s.session.effective.options.setWidth 8] ++
      be2 s.session.lobbySet ++ be2 (s.session.roster.getD 0) ++
      (match s.session.rule with
        | none => [0x80, 0, 0, 0, 0]
        | some r => [r.course.setWidth 8 ||| (r.lapCode.setWidth 8 <<< 3) ||| (r.options.setWidth 8 <<< 5),
            if r.lapCode = 0 then 1 else if r.lapCode = 1 then 2 else if r.lapCode = 2 then 3 else 5] ++
            be3 (BitVec.ofNat 24 (s.store.courseLength r.course))) ++ [s.session.tag])))

/-- The reading commands answer OK with as many response bytes as the command code table gives, and change nothing
else; READ COUNTDOWN, READ PEER, READ CARS and READ STANDINGS answer the fields of their rules in the order of the
formats section, the cars and the list as presented at the view time while the table is frozen, else at C (R51, R68,
R90, R105, R128, R129, R130, R131, R150, R162, R169, R186, R188, R198, R199). -/
def Obligations.ReadsChangeNothing : Prop :=
  (∀ (i : Instr) (s : State) (n : Nat), s.hears i →
    ((i = .readStatus ∧ n = 22) ∨ (i = .readLobby ∧ n = 22) ∨
      (i = .readCountdown ∧ n = 16 + 5 * s.session.recorded.length) ∨ (i = .readClock ∧ n = 12) ∨
      (∃ st : Byte, st.toNat ≤ 15 ∧ i = .readPeer st ∧ n = 53) ∨
      (i = .readCars ∧ n = 11 + 10 * s.carLines.length) ∨ (i = .readProx ∧ n = 50) ∨
      (∃ start count : Byte, 1 ≤ start.toNat ∧ start.toNat ≤ 16 ∧ 1 ≤ count.toNat ∧ count.toNat ≤ 16 ∧
        i = .readStandings start count ∧
        n = 13 + 29 * min count.toNat (s.standingsList.length - (start.toNat - 1)))) →
    ∃ bytes, bytes.length = n ∧ exec i s = .next (s.answering .ok bytes)) ∧
  (∀ s : State, s.hears .readCountdown →
    let proposals := ((stations.filter fun st => member (s.session.roster.getD 0) st).filterMap fun st =>
      (s.session.proposalOf st).map fun p => BitVec.ofNat 8 st.val :: be4 p)
    exec .readCountdown s = .next (s.answering .ok
      ([s.session.phase.code,
          (if s.session.abortHold.isSome then 1#8 else 0#8) ||| (if s.session.roster.isSome then 2#8 else 0#8) |||
            (if s.session.agreed.isSome then 4#8 else 0#8) ||| (if s.session.lastAbort.isSome then 8#8 else 0#8)] ++
        be4 (BitVec.ofNat 32 (s.session.abortHold.getD 0)) ++ be2 (s.session.roster.getD 0) ++
        [BitVec.ofNat 8 proposals.length] ++ be4 (s.session.agreed.getD 0) ++
        [s.session.tag,
          (match s.session.lastAbort with
            | some (.clock, _) => 1
            | some (.member, _) => 2
            | some (.host, _) => 3
            | some (.leave, _) => 4
            | none => 0),
          (match s.session.lastAbort with
            | some (_, some st) => BitVec.ofNat 8 st.val
            | _ => 0)] ++ proposals.flatten))) ∧
  (∀ (s : State) (st : Station), s.hears (.readPeer (BitVec.ofNat 8 st.val)) →
    let x := s.link.at st
    let y := s.table.at st
    exec (.readPeer (BitVec.ofNat 8 st.val)) s = .next (s.answering .ok
      ([BitVec.ofNat 8 st.val, x.presence.code, x.count, BitVec.ofNat 8 x.fade, BitVec.ofNat 8 x.expiry,
          (if x.chatter then 1#8 else 0#8) ||| (if x.sample.isSome then 2#8 else 0#8) |||
            (if s.table.queue.any (fun f => f.sender == st) then 4#8 else 0#8) |||
            (if y.beacon.isSome then 8#8 else 0#8) ||| (if y.car.isSome then 16#8 else 0#8)] ++
        be4 (x.sample.getD 0) ++ [y.lastKind.code] ++
        (match y.beacon with
          | some (tag, b) => tag :: (beaconHead b ++ be4 (b.proposal.getD 0) ++ be4 (b.agreed.getD 0))
          | none => List.replicate 15 0) ++
        (match y.car with
          | some (tag, c) => tag :: (carHead c ++ be4 (c.finish.getD 0))
          | none => List.replicate 19 0) ++
        be4 (BitVec.ofInt 32 y.residual) ++ be4 y.blendStart))) ∧
  (∀ (s : State) (header : Nat → List Byte) (view : Time) (copy : Option CarRecord), s.hears .readCars →
    (match s.table.freeze with
      | some f => view = f.view ∧ copy = s.motion.frozen
      | none => view = s.now ∧ copy = s.motion.live) →
    (∀ n, header n = be4 view ++ [if s.table.freeze.isSome then 1#8 else 0#8, s.session.phase.code] ++
      be3 (BitVec.ofNat 24 (if s.session.held then s.courseLength else 0)) ++
      [BitVec.ofNat 8 (if s.session.held then s.laps else 0), BitVec.ofNat 8 n]) →
    ((s.session.phase = .offline ∨ s.session.phase = .lobby ∨ s.session.phase = .proposing) →
      let cars := stations.filterMap fun st => if st ≠ s.own ∧ s.live st = true then
        (s.table.at st).car.map fun r =>
          [BitVec.ofNat 8 st.val, 0#8, r.2.lap] ++ be3 r.2.position ++ [r.2.lateral] ++ be2 r.2.speed ++
            [(if (s.store.horizon : Int) < tdiff view r.2.recordTime then 1#8 else 0#8) |||
              (if r.2.inPit then 2#8 else 0#8) ||| (if r.2.offTrack then 4#8 else 0#8) |||
              (if r.2.finish.isSome then 8#8 else 0#8)]
        else none
      exec .readCars s = .next (s.answering .ok (header cars.length ++ cars.flatten))) ∧
    (∀ listed : List Station,
      ((s.session.phase = .armed ∧ listed = stations.filter fun st => member (s.session.roster.getD 0) st) ∨
        (s.session.phase.hasStandings = true ∧ listed = stations.filter fun st => (s.standings.at st).isSome)) →
      exec .readCars s = .next (s.answering .ok (header listed.length ++ listed.flatMap fun st =>
        let p := s.present copy st view
        [BitVec.ofNat 8 st.val,
          (match s.standings.at st with
            | some r => r.status.code
            | none => 0),
          BitVec.ofNat 8 (p.distance / s.courseLength)] ++ be3 (BitVec.ofNat 24 (p.distance % s.courseLength)) ++
          [p.lateral] ++ be2 (BitVec.ofInt 16 p.speed) ++
          [(if p.stale then 1#8 else 0#8) ||| (if p.inPit then 2#8 else 0#8) ||| (if p.offTrack then 4#8 else 0#8) |||
            (if p.finished then 8#8 else 0#8) ||| (if p.noRecord then 16#8 else 0#8)])))) ∧
  (∀ (s : State) (start count : Byte) (view : Time) (list : List Standing), s.hears (.readStandings start count) →
     1 ≤ start.toNat →
    start.toNat ≤ 16 → 1 ≤ count.toNat → count.toNat ≤ 16 →
    ((s.session.phase.inRace = true ∧ view = s.viewTime ∧ list = s.formList s.viewCopy s.viewTime) ∨
      (s.session.phase = .results ∧ s.standings.overAt = some view ∧ s.standings.final = some list) ∨
      (s.session.phase.hasStandings = false ∧ view = 0 ∧ list = [])) →
    let shown := (list.drop (start.toNat - 1)).take count.toNat
    exec (.readStandings start count) s = .next (s.answering .ok
      (be4 (if list = [] then 0 else view) ++
        [(if s.session.phase.inRace = true ∧ s.table.freeze.isSome = true then 1#8 else 0#8) |||
            (if s.session.phase = .results then 2#8 else 0#8),
          (if s.session.phase = .results then (match s.standings.cause with
            | some c => c.code
            | none => 0) else 0),
          s.session.phase.code, BitVec.ofNat 8 list.length] ++
        be4 (if list = [] then 0 else s.session.agreed.getD 0) ++ [BitVec.ofNat 8 shown.length] ++
        shown.flatMap fun x =>
          [BitVec.ofNat 8 x.place, BitVec.ofNat 8 x.station.val, x.status.code, BitVec.ofNat 8 x.lap] ++
            be4 (BitVec.ofNat 32 x.distance) ++
            [(if x.elapsed.isSome then 1#8 else 0#8) ||| (if x.finish.isSome then 2#8 else 0#8) |||
              (if x.gapT.isSome then 4#8 else 0#8) ||| (if x.gapD.isSome then 8#8 else 0#8) |||
              (if x.delta.isSome then 16#8 else 0#8)] ++
            be4 (BitVec.ofNat 32 (x.elapsed.getD 0)) ++ be4 (x.finish.getD 0) ++
            be4 (BitVec.ofNat 32 (x.gapT.getD 0)) ++ be4 (BitVec.ofNat 32 (x.gapD.getD 0)) ++
            be4 (BitVec.ofInt 32 (x.delta.getD 0)))))

/-- A command refused answers its status alone and changes nothing else (R68, R73, R76, R78, R87, R101, R110, R169,
R172, R186, R188, R192, R194). -/
def Obligations.RefusedCommandsChangeNothing : Prop :=
  ∀ (i : Instr) (s : State), s.hears i →
    (s.session.phase ≠ .offline → (i = .join ∨ (∃ p, i = .configure p) ∨ (∃ n l, i = .setCourse n l) ∨
      ∃ n l, i = .setPattern n l) → exec i s = .next (s.answering .phase [])) ∧
    (s.session.phase ≠ .results → i = .newRace → exec i s = .next (s.answering .phase [])) ∧
    (s.session.phase ≠ .lobby → (∃ a b c, i = .setOffer a b c) → exec i s = .next (s.answering .phase [])) ∧
    (s.session.phase = .lobby → s.session.ready = true → (∃ a b c, i = .setOffer a b c) →
      exec i s = .next (s.answering .locked [])) ∧
    ((s.session.phase = .offline ∨ s.session.phase.hasStandings = true) → (i = .setReady ∨ i = .clearReady) →
      exec i s = .next (s.answering .phase [])) ∧
    (s.session.phase ≠ .armed → s.session.phase.inRace = false → (∃ p, i = .postCar p) →
      exec i s = .next (s.answering .phase [])) ∧
    (s.session.phase = .offline → i = .freeze → exec i s = .next (s.answering .phase [])) ∧
    (s.session.phase ≠ .offline → s.table.freeze.isSome = true → i = .freeze →
      exec i s = .next (s.answering .busy [])) ∧
    (∀ st : Byte, 15 < st.toNat → i = .readPeer st → exec i s = .next (s.answering .operand [])) ∧
    (∀ a b : Byte, (a.toNat = 0 ∨ 16 < a.toNat ∨ b.toNat = 0 ∨ 16 < b.toNat) → i = .readStandings a b →
      exec i s = .next (s.answering .operand [])) ∧
    (∀ a b : Byte, (a.toNat = 0 ∨ 16 < a.toNat ∨ 7 < b.toNat) → i = .readLine a b →
      exec i s = .next (s.answering .operand [])) ∧
    (∀ (n : Byte) l, s.session.phase = .offline → 7 < n.toNat → i = .setCourse n l →
      exec i s = .next (s.answering .operand []))

/-! ## Configuration -/

/-- CONFIGURE in OFFLINE stores every parameter clamped to its range, P rounded down to a multiple of 500 µs, ON held
to the stored W and OFF to the stored ON; it restarts the window without an evaluation and recomputes the effective
offer, and answers the 38 parameter bytes as stored, in operand order, and the clamped byte, clear exactly when the
bytes stored are the bytes sent, the ignored mask bits apart (R35, R80, R192). -/
def Obligations.ConfigureClampsAndStores : Prop :=
  ∀ (p : Parameters) (s : State), s.hears (.configure p) → s.session.phase = .offline →
    ∃ t, exec (.configure p) s = .next t ∧
    t.store =
      { period := clampNat 2000 8000 p.period.toNat / 500 * 500
        window := clampNat 8 32 p.window.toNat
        on := clampNat 1 t.store.window p.on.toNat
        off := clampNat 0 t.store.on p.off.toNat
        dropout := clampNat 1 8 p.dropout.toNat
        horizon := clampNat 50000 1000000 p.horizon.toNat
        blend := clampNat 0 200000 p.blend.toNat
        snap := clampNat 50 5000 p.snap.toNat
        startLead := clampNat 3000000 10000000 p.startLead.toNat
        finishWindow := clampNat 10 120 p.finishWindow.toNat
        dnfTimeout := clampNat 2 30 p.dnfTimeout.toNat
        linkDelay := clampNat 0 50 p.linkDelay.toNat
        slew := clampNat 10 500 p.slew.toNat
        lockBound := clampNat 50 1000 p.lockBound.toNat
        operator := { courses := p.courses, laps := p.laps.setWidth 4, options := p.options.setWidth 2 }
        sweepGap := clampNat 250 2000 p.sweepGap.toNat
        contactLength := clampNat 100 1000 p.contactLength.toNat
        contactWidth := clampNat 5 50 p.contactWidth.toNat
        draftLength := clampNat 500 6000 p.draftLength.toNat
        draftWidth := clampNat 2 30 p.draftWidth.toNat
        courses := s.store.courses } ∧
    t.session = { s.session with effective := effectiveOffer s.session.hostOffer t.store } ∧
    t.link.window = t.store.window * t.store.period ∧
    (∀ st, t.link.at st =
      { s.link.at st with count := 0, sample := none, fade := min (s.link.at st).fade t.store.dropout }) ∧
    t.port = { s.port with
      state := .response, hdi := [], buffer := [], counted := 0,
      response := 0#8 :: (t.store.bytes ++ [if parametersClamped p t.store then 1#8 else 0#8]) } ∧
    t.store.bytes.length = 38 ∧
    t.store.bytes =
      be2 (BitVec.ofNat 16 t.store.period) ++
        [BitVec.ofNat 8 t.store.window, BitVec.ofNat 8 t.store.on, BitVec.ofNat 8 t.store.off,
          BitVec.ofNat 8 t.store.dropout] ++
        be4 (BitVec.ofNat 32 t.store.horizon) ++ be4 (BitVec.ofNat 32 t.store.blend) ++
        be2 (BitVec.ofNat 16 t.store.snap) ++ be4 (BitVec.ofNat 32 t.store.startLead) ++
        [BitVec.ofNat 8 t.store.finishWindow, BitVec.ofNat 8 t.store.dnfTimeout, BitVec.ofNat 8 t.store.linkDelay] ++
        be2 (BitVec.ofNat 16 t.store.slew) ++ be2 (BitVec.ofNat 16 t.store.lockBound) ++
        [p.courses, p.laps &&& 0x0F#8, p.options &&& 3#8] ++
        be2 (BitVec.ofNat 16 t.store.sweepGap) ++ be2 (BitVec.ofNat 16 t.store.contactLength) ++
        [BitVec.ofNat 8 t.store.contactWidth] ++ be2 (BitVec.ofNat 16 t.store.draftLength) ++
        [BitVec.ofNat 8 t.store.draftWidth] ∧
    (parametersClamped p t.store = false ↔
      t.store.bytes = parameterBytes { p with laps := p.laps &&& 0x0F#8, options := p.options &&& 3#8 }) ∧
    t.pending = s.pending ∧ t.choices = s.choices ∧ t.inReset = false ∧ t.straps = s.straps ∧ t.bus = s.bus ∧
    t.clock = s.clock ∧ t.table = s.table ∧ t.motion = s.motion ∧ t.prox = s.prox ∧ t.standings = s.standings ∧
    t.patterns = s.patterns

/-- SET COURSE in OFFLINE with an index of 0 to 7 removes the course for length 0, stores any other length clamped to
50,000 to 8,000,000 tu, recomputes the effective offer and answers the length as stored; an index above 7 is refused
with OPERAND in OFFLINE, and every SET COURSE elsewhere with PHASE; the resets restore course 0 at 300,000 tu alone
(R194). -/
def Obligations.SetCourseStoresTheLength : Prop :=
  (∀ (n : Byte) (length : BitVec 32) (s : State), s.hears (.setCourse n length) → s.session.phase = .offline →
     n.toNat ≤ 7 →
    ∃ (t : State) (stored : Nat), exec (.setCourse n length) s = .next t ∧
      stored = (if length = 0 then 0 else clampNat 50000 8000000 length.toNat) ∧
      (∀ i (h : i < 8), t.store.courses[i] = if i = n.toNat then stored else s.store.courses[i]) ∧
      (∀ i : BitVec 3, t.store.installed.getLsbD i.toNat = decide (t.store.courseLength i ≠ 0)) ∧
      t.session = { s.session with effective :=
        { courses := s.session.hostOffer.courses &&& s.store.operator.courses &&& t.store.installed
          laps := s.session.hostOffer.laps &&& s.store.operator.laps
          options := s.session.hostOffer.options &&& s.store.operator.options } } ∧
      t = ((s.setStore { s.store with courses := t.store.courses }).setSession t.session).answering .ok
        (be4 (BitVec.ofNat 32 stored))) ∧
  (∀ (n : Byte) (length : BitVec 32) (s : State), s.hears (.setCourse n length) →
    (s.session.phase = .offline → 7 < n.toNat → exec (.setCourse n length) s = .next (s.answering .operand [])) ∧
    (s.session.phase ≠ .offline → exec (.setCourse n length) s = .next (s.answering .phase []))) ∧
  (∀ (c : Instr) (s : State),
    ((∃ station rate auto, c = .resetRelease station rate auto) ∨ (s.inReset = false ∧ s.port.softReset = true ∧
      s.port.answered = true ∧ (c = .softResetActs ∨ c = .transactionEnd ∨ c = .responseEndedEarly))) →
    ∃ t, exec c s = .next t ∧ ∀ i (h : i < 8), t.store.courses[i] = if i = 0 then 300000 else 0)

/-- SET PATTERN in OFFLINE with an index of 0 to 7 and 1 to 24 steps of the fifteen codes loads that pattern with the
steps as R173 stores them; a step that cannot be used refuses the whole (R171, R172, R173). Each code names its step; a
count is stored as given, a character outside 0x20 to 0x7E as '?' (R173, R174). -/
def Obligations.SetPatternLoadsTheSteps : Prop :=
  (∀ (n : Byte) (steps : List (Byte × Byte)) (s : State), s.hears (.setPattern n steps) → s.session.phase = .offline →
    ((n.toNat ≤ 7 ∧ 1 ≤ steps.length ∧ steps.length ≤ 24 ∧
        (∀ x ∈ steps, 1 ≤ x.1.toNat ∧ x.1.toNat ≤ 15 ∧ (x.1 = 1#8 → x.2.toNat ≤ 6))) →
      ∃ (t : State) (list : List Machine.Step), exec (.setPattern n steps) s = .next t ∧
        t = (s.setPatterns t.patterns).answering .ok [] ∧ list.length = steps.length ∧
        (∀ i (h : i < 8), t.patterns[i] = if i = n.toNat then some list else s.patterns[i]) ∧
        (∀ k (h : k < steps.length) (h' : k < list.length), ofStepBytes steps[k].1 steps[k].2 = some list[k])) ∧
    (¬ (n.toNat ≤ 7 ∧ 1 ≤ steps.length ∧ steps.length ≤ 24 ∧
        (∀ x ∈ steps, 1 ≤ x.1.toNat ∧ x.1.toNat ≤ 15 ∧ (x.1 = 1#8 → x.2.toNat ≤ 6))) →
      exec (.setPattern n steps) s = .next (s.answering .operand []))) ∧
  (∀ arg : Byte,
    let char := if 0x20#8 ≤ arg ∧ arg ≤ 0x7E#8 then arg else 0x3F#8
    ofStepBytes 0x01#8 arg =
      ([.place, .station, .lap, .elapsed, .gapT, .gapD, .delta] : List Field)[arg.toNat]?.map Machine.Step.sel ∧
    ofStepBytes 0x02#8 arg = some (.zs arg.toNat) ∧ ofStepBytes 0x03#8 arg = some (.cp arg.toNat) ∧
    ofStepBytes 0x04#8 arg = some (.sk arg.toNat) ∧ ofStepBytes 0x05#8 arg = some (.lit char) ∧
    ofStepBytes 0x06#8 arg = some (.lits char) ∧ ofStepBytes 0x07#8 arg = some (.minus char) ∧
    ofStepBytes 0x08#8 arg = some (.plus char) ∧ ofStepBytes 0x09#8 arg = some (.fill char) ∧
    ofStepBytes 0x0A#8 arg = some (.float char) ∧ ofStepBytes 0x0B#8 arg = some .fsign ∧
    ofStepBytes 0x0C#8 arg = some .sig ∧ ofStepBytes 0x0D#8 arg = some (.jz arg.toNat) ∧
    ofStepBytes 0x0E#8 arg = some (.ja arg.toNat) ∧ ofStepBytes 0x0F#8 arg = some .stop)

/-! ## The session -/

/-- The lobby set holds the own station and each live peer whose stored beacon has phase LOBBY or PROPOSING and session
tag 0 (R81); the common masks hold what every member offers; the rule is NONE exactly when no course or no lap code is
common, and else the highest common course and lap code with the common options (R83). The own station offers its
effective offer, and a peer the three masks of its stored beacon; that a member without a stored beacon excludes
nothing is the model's choice (assumption 20). -/
def Obligations.ResolutionByTheOffers : Prop :=
  (∀ (s : State) (st : Station), member s.recomputeLobby.session.lobbySet st = true ↔
     (st = s.own ∨
       (((s.link.at st).presence = .present ∨ (s.link.at st).presence = .fading) ∧
         ∃ b : Beacon, (s.table.at st).beacon = some (0#8, b) ∧ (b.phase = .lobby ∨ b.phase = .proposing)))) ∧
  (∀ s : State,
     (∀ i, i < 8 → (s.commonOffer.courses.getLsbD i = true ↔
       ∀ st, member s.session.lobbySet st = true → (s.offerOf st).courses.getLsbD i = true)) ∧
     (∀ i, i < 4 → (s.commonOffer.laps.getLsbD i = true ↔
       ∀ st, member s.session.lobbySet st = true → (s.offerOf st).laps.getLsbD i = true)) ∧
     (∀ i, i < 2 → (s.commonOffer.options.getLsbD i = true ↔
       ∀ st, member s.session.lobbySet st = true → (s.offerOf st).options.getLsbD i = true)) ∧
     s.offerOf s.own = s.session.effective ∧
     (∀ st tag b, st ≠ s.own → (s.table.at st).beacon = some (tag, b) → s.offerOf st = b.offer) ∧
     (∀ st, st ≠ s.own → (s.table.at st).beacon = none →
       s.offerOf st = { courses := 255#8, laps := 15#4, options := 3#2 })) ∧
  (∀ common : Offer,
     (ruleOf common = none ↔ common.courses = 0 ∨ common.laps = 0) ∧
     ∀ r : Rule, ruleOf common = some r →
       common.courses.getLsbD r.course.toNat = true ∧
       (∀ i, r.course.toNat < i → common.courses.getLsbD i = false) ∧
       common.laps.getLsbD r.lapCode.toNat = true ∧
       (∀ i, r.lapCode.toNat < i → common.laps.getLsbD i = false) ∧
       r.options = common.options)

/-- JOIN in OFFLINE: LOBBY, the period timer at one P, the bus counters 0, the lobby set and the rule as they resolve,
with RULE_CHANGE and CLEARDOWN by their rules; Link Monitor, Race Clock, Peer Table and Receive Queue as they were (R8,
R21, R73, R85, R86). The ready flag is clear in OFFLINE. -/
def Obligations.JoinEntersTheLobby : Prop :=
  ∀ s : State, s.hears .join → s.session.phase = .offline → s.session.ready = false →
    ∃ t, exec .join s = .next t ∧ t.session.phase = .lobby ∧ t.session.ready = false ∧
      t.bus = { s.bus with period := some s.store.period, badFrames := 0, collisions := 0, dropped := 0 } ∧
      (∀ st, member t.session.lobbySet st = s.gathers st) ∧ t.session.rule = ruleOf t.commonOffer ∧
      t.session = { s.session with
        phase := .lobby, lobbySet := t.session.lobbySet, rule := t.session.rule,
        cleardownMark := t.session.cleardownMark } ∧
      (t.session.cleardownMark = true ↔
        t.session.rule = none ∧ 2 ≤ (members t.session.lobbySet).length) ∧
      (∀ e : Event, t.port.latched e = (s.port.latched e ||
        (decide (e = .ruleChange) && decide (t.session.rule ≠ s.session.rule)) ||
        (decide (e = .cleardown) && t.session.cleardownMark))) ∧
      t.port.state = .response ∧ t.port.response = [0x00#8] ∧ t.port.mask = s.port.mask ∧
      t.port.details = s.port.details ∧
      t.pending = s.pending ∧ t.choices = s.choices ∧ t.inReset = false ∧ t.straps = s.straps ∧ t.store = s.store ∧
      t.link = s.link ∧ t.clock = s.clock ∧ t.table = s.table ∧ t.motion = s.motion ∧ t.prox = s.prox ∧
      t.standings = s.standings ∧ t.patterns = s.patterns

/-- LEAVE outside OFFLINE: the session goes to OFFLINE with the state of R74, the transmitter closes, C equals T, a
freeze ends, and the race is removed; the Link Monitor, T, the straps, the store and the patterns stay (R15, R53, R71,
R74, R75, R106). The queue is empty while the table is not frozen (R60). The order of the blocks' work is the model's
reading (assumption 14). The lobby set is recomputed, a frozen queue is applied, each waiting beacon standing in its
sender's entry, and no event latches but ABORTED, RULE_CHANGE and CLOCK_STATE by their rules (R53, R60, R71, R74, R75).
LEAVE in OFFLINE is taken and changes nothing (R74); that it leaves the car records is the model's reading of R71
beside R74 (assumption 24). -/
def Obligations.LeaveTearsTheSessionDown : Prop :=
  (∀ s : State, s.hears .leave → s.session.phase = .offline → exec .leave s = .next (s.answering .ok [])) ∧
  ∀ s : State, s.hears .leave → s.session.phase ≠ .offline → s.table.QueueOk →
    ∃ t, exec .leave s = .next t ∧ t.session.phase = .offline ∧ t.session.ready = false ∧
      t.session.abortHold = none ∧ t.session.roster = none ∧ (∀ st, t.session.proposalOf st = none) ∧
      t.session.agreed = none ∧ t.session.tag = 0 ∧ t.session.earliest = none ∧ t.session.deadline = none ∧
      t.session.limit = none ∧ t.session.rule = none ∧ t.session.held = false ∧
      t.session.hostOffer = s.session.hostOffer ∧ t.session.effective = s.session.effective ∧
      t.session.lastAbort = (if s.session.phase.countdown then some (.leave, none) else s.session.lastAbort) ∧
      t.bus = { s.bus with
        period := none
        tx := match s.bus.tx with
          | .sending f n stamp _ _ => .sending f n stamp true none
          | _ => .idle } ∧
      t.clock = { t := s.clock.t, k := 0, debt := 0, payment := 0, state := .free } ∧ t.now = s.clock.t ∧
      t.table.freeze = none ∧ t.table.queue = [] ∧ t.table.merges = s.table.merges ∧
      t.table.overruns = s.table.overruns ∧
      (∀ st, (t.table.at st).car = none ∧ (t.table.at st).residual = 0 ∧ (t.table.at st).blendStart = 0) ∧
      (∀ st, (∀ g ∈ s.table.queue, g.sender ≠ st) → (t.table.at st).beacon = (s.table.at st).beacon ∧
        (t.table.at st).lastKind = (s.table.at st).lastKind) ∧
      (∀ g ∈ s.table.queue,
        (∀ b, g.body = .beacon b → (t.table.at g.sender).beacon = some (g.tag, b) ∧
          (t.table.at g.sender).lastKind = .beacon) ∧
        (∀ c, g.body = .car c → (t.table.at g.sender).beacon = (s.table.at g.sender).beacon ∧
          (t.table.at g.sender).lastKind = .car)) ∧
      t.motion = { live := none, frozen := none } ∧ (∀ st, t.standings.at st = none) ∧ t.standings.final = none ∧
      t.standings.overAt = none ∧ t.standings.cause = none ∧ (∀ st, t.prox.at st = ProxEntry.clear) ∧
      t.prox.position = 0 ∧ t.prox.timer = none ∧ t.prox.enabled = s.prox.enabled ∧
      (∀ st, member t.session.lobbySet st = t.gathers st) ∧ t.session.cleardownMark = false ∧
      (∀ e : Event, t.port.latched e = (s.port.latched e || (decide (e = .aborted) && s.session.phase.countdown) ||
        (decide (e = .ruleChange) && decide (s.session.rule ≠ none)) ||
        (decide (e = .clockState) && decide (s.clock.state ≠ .free)))) ∧
      s.port.latch &&& t.port.latch = s.port.latch ∧ t.port.mask = s.port.mask ∧ t.port.response = [0x00#8] ∧
      t.pending = s.pending ∧ t.choices = s.choices ∧ t.inReset = false ∧ t.straps = s.straps ∧ t.store = s.store ∧
      t.link = s.link ∧ t.patterns = s.patterns

/-- NEW RACE in RESULTS: the session goes to LOBBY with the state of R76 and the race is removed; the transmitter, the
Race Clock and the Link Monitor stay, and a frozen queue is applied, each waiting beacon standing in its sender's entry
(R60, R71, R76, R77, R106). RULE_CHANGE latches when the rule resolved afresh is not the rule held, CLEARDOWN when it
is NONE with two members or more, the mark being clear at NEW RACE: exactly then where no frame waits in a freeze, and
at the least then where the frames of one are applied, each with its re-evaluation (R76, R77, R85, R86). The order of
the blocks' work is the model's reading (assumption 14). -/
def Obligations.NewRaceReturnsToTheLobby : Prop :=
  ∀ s : State, s.hears .newRace → s.session.phase = .results → s.table.QueueOk →
    ∃ t, exec .newRace s = .next t ∧ t.session.phase = .lobby ∧ t.session.ready = false ∧
      t.session.abortHold = none ∧ t.session.roster = none ∧ (∀ st, t.session.proposalOf st = none) ∧
      t.session.agreed = none ∧ t.session.tag = 0 ∧ t.session.earliest = none ∧ t.session.deadline = none ∧
      t.session.limit = none ∧ t.session.held = false ∧ t.session.rule = ruleOf t.commonOffer ∧
      (∀ st, member t.session.lobbySet st = t.gathers st) ∧
      (t.session.cleardownMark = true ↔ t.session.rule = none ∧ 2 ≤ (members t.session.lobbySet).length) ∧
      (t.session.rule ≠ s.session.rule → t.port.latched .ruleChange = true) ∧
      (t.session.cleardownMark = true → t.port.latched .cleardown = true) ∧
      (s.table.queue = [] → ∀ e : Event, t.port.latched e = (s.port.latched e ||
        (decide (e = .ruleChange) && decide (t.session.rule ≠ s.session.rule)) ||
        (decide (e = .cleardown) && t.session.cleardownMark))) ∧
      (∀ e : Event, e ≠ .ruleChange → e ≠ .cleardown → t.port.latched e = s.port.latched e) ∧
      t.session.hostOffer = s.session.hostOffer ∧ t.session.effective = s.session.effective ∧
      t.session.lastAbort = s.session.lastAbort ∧
      t.table.freeze = none ∧ t.table.queue = [] ∧
      (∀ st, (t.table.at st).car = none ∧ (t.table.at st).residual = 0 ∧ (t.table.at st).blendStart = 0) ∧
      (∀ st, (∀ g ∈ s.table.queue, g.sender ≠ st) → (t.table.at st).beacon = (s.table.at st).beacon ∧
        (t.table.at st).lastKind = (s.table.at st).lastKind) ∧
      (∀ g ∈ s.table.queue,
        (∀ b, g.body = .beacon b → (t.table.at g.sender).beacon = some (g.tag, b) ∧
          (t.table.at g.sender).lastKind = .beacon) ∧
        (∀ c, g.body = .car c → (t.table.at g.sender).beacon = (s.table.at g.sender).beacon ∧
          (t.table.at g.sender).lastKind = .car)) ∧
      t.motion = { live := none, frozen := none } ∧ (∀ st, t.standings.at st = none) ∧ t.standings.final = none ∧
      t.standings.overAt = none ∧ t.standings.cause = none ∧ (∀ st, t.prox.at st = ProxEntry.clear) ∧
      t.prox.position = 0 ∧ t.prox.timer = none ∧ t.prox.enabled = s.prox.enabled ∧
      s.port.latch &&& t.port.latch = s.port.latch ∧ t.port.mask = s.port.mask ∧ t.port.response = [0x00#8] ∧
      t.pending = s.pending ∧ t.choices = s.choices ∧ t.inReset = false ∧ t.straps = s.straps ∧ t.store = s.store ∧
      t.bus = s.bus ∧ t.clock = s.clock ∧ t.link = s.link ∧ t.patterns = s.patterns

/-- SET OFFER in LOBBY with the ready flag clear replaces the host offer, ignoring the bits above the masks, recomputes
the effective offer and makes a re-evaluation (R78, R80, R82): RULE_CHANGE latches when the rule changes, and CLEARDOWN
when it is NONE with two members or more and the cleardown mark was clear, the mark then standing until a re-evaluation
finds otherwise (R85, R86). -/
def Obligations.SetOfferReplacesTheOffer : Prop :=
  ∀ (courses laps options : Byte) (s : State), s.hears (.setOffer courses laps options) → s.session.phase = .lobby →
    s.session.ready = false →
    ∃ t, exec (.setOffer courses laps options) s = .next t ∧
      t.session.hostOffer = { courses := courses, laps := laps.setWidth 4, options := options.setWidth 2 } ∧
      t.session.effective =
        { courses := courses &&& s.store.operator.courses &&& s.store.installed
          laps := laps.setWidth 4 &&& s.store.operator.laps
          options := options.setWidth 2 &&& s.store.operator.options } ∧
      t.session.phase = .lobby ∧ t.session.ready = false ∧ (∀ st, member t.session.lobbySet st = s.gathers st) ∧
      t.session.rule = ruleOf t.commonOffer ∧
      (t.session.cleardownMark = true ↔ t.session.rule = none ∧ 2 ≤ (members t.session.lobbySet).length) ∧
      (∀ e : Event, t.port.latched e = (s.port.latched e ||
        (decide (e = .ruleChange) && decide (t.session.rule ≠ s.session.rule)) ||
        (decide (e = .cleardown) && t.session.cleardownMark && !s.session.cleardownMark))) ∧
      t.port.response = [0x00#8] ∧ t.port.mask = s.port.mask ∧ t.port.details = s.port.details ∧
      t.pending = s.pending ∧ t.choices = s.choices ∧ t.straps = s.straps ∧ t.store = s.store ∧ t.bus = s.bus ∧
      t.link = s.link ∧ t.clock = s.clock ∧ t.table = s.table ∧ t.motion = s.motion ∧ t.prox = s.prox ∧
      t.standings = s.standings ∧ t.patterns = s.patterns

/-- SET READY in LOBBY sets the ready flag and makes the re-evaluation (what it does is stated with entry to
PROPOSING), the part staying in LOBBY while Condition A fails, and changes nothing in PROPOSING and ARMED (R82, R87,
R91). CLEAR READY in LOBBY clears the flag and re-evaluates, a hold running on; in PROPOSING and ARMED it is an abort:
LOBBY, the agreement gone, the tag 0, the rule released and resolved afresh, the own record removed, the abort flag set
with its hold of 250,000 µs, the last abort HOST, ABORTED latched (R99, R100, R101). -/
def Obligations.ReadinessCommands : Prop :=
  ((∀ s : State, s.hears .setReady → s.session.phase = .lobby →
     exec .setReady s = .next ((s.setSession { s.session with ready := true }).reevaluate.answering .ok [])) ∧
   (∀ s : State, s.hears .setReady → s.session.phase = .lobby →
     (s.setReadyFlag true).recomputeLobby.resolveRule.conditionA = false →
     ∃ t, exec .setReady s = .next t ∧ t.session.phase = .lobby ∧ t.session.ready = true ∧
       (∀ st, member t.session.lobbySet st = s.gathers st) ∧ t.session.rule = ruleOf t.commonOffer ∧
       t.session.hostOffer = s.session.hostOffer ∧ t.session.abortHold = s.session.abortHold ∧
       t.port.response = [0x00#8] ∧ t.pending = s.pending ∧ t.store = s.store ∧ t.bus = s.bus ∧ t.link = s.link ∧
       t.clock = s.clock ∧ t.table = s.table ∧ t.motion = s.motion ∧ t.prox = s.prox ∧ t.standings = s.standings ∧
       t.patterns = s.patterns) ∧
   (∀ s : State, s.hears .setReady → s.session.phase = .proposing ∨ s.session.phase = .armed →
     exec .setReady s = .next (s.answering .ok []))) ∧
  (∀ s : State, s.hears .clearReady → s.session.phase = .lobby → ∃ t, exec .clearReady s = .next t ∧
     t.session.phase = .lobby ∧ t.session.ready = false ∧ t.session.abortHold = s.session.abortHold ∧
     (∀ st, member t.session.lobbySet st = s.gathers st) ∧ t.session.rule = ruleOf t.commonOffer ∧
     t.session.hostOffer = s.session.hostOffer ∧ t.session.effective = s.session.effective ∧
     t.session.roster = s.session.roster ∧ t.session.lastAbort = s.session.lastAbort ∧ t.port.response = [0x00#8] ∧
     t.pending = s.pending ∧ t.store = s.store ∧ t.bus = s.bus ∧ t.link = s.link ∧ t.clock = s.clock ∧
     t.table = s.table ∧ t.motion = s.motion ∧ t.prox = s.prox ∧ t.standings = s.standings ∧ t.patterns = s.patterns) ∧
  (∀ s : State, s.hears .clearReady → s.session.phase = .proposing ∨ s.session.phase = .armed →
     ∃ t, exec .clearReady s = .next t ∧ t.session.phase = .lobby ∧ t.session.ready = false ∧
       t.session.roster = none ∧ (∀ st, t.session.proposalOf st = none) ∧ t.session.agreed = none ∧
       t.session.tag = 0 ∧ t.session.held = false ∧ t.session.rule = ruleOf t.commonOffer ∧
       t.session.abortHold = some 250000 ∧ t.session.lastAbort = some (.host, none) ∧
       t.motion = { live := none, frozen := none } ∧ t.port.latched .aborted = true ∧
       (∀ st, member t.session.lobbySet st = s.gathers st) ∧ t.session.hostOffer = s.session.hostOffer ∧
       t.session.effective = s.session.effective ∧ s.port.latch &&& t.port.latch = s.port.latch ∧
       t.port.response = [0x00#8] ∧ t.pending = s.pending ∧ t.store = s.store ∧ t.bus = s.bus ∧ t.link = s.link ∧
       t.clock = s.clock ∧ t.table = s.table ∧ t.prox = s.prox ∧ t.standings = s.standings ∧ t.patterns = s.patterns)

/-- When the abort hold runs out the abort flag is cleared and a re-evaluation starts (what it does is stated with
entry to PROPOSING): with Condition A failing the part stays in LOBBY (R82, R100). -/
def Obligations.AbortHoldRunsOut : Prop :=
  (∀ s : State, s.inReset = false → s.session.abortHold = some 0 →
    exec .abortHoldExpiry s = .next (s.setSession { s.session with abortHold := none }).reevaluate) ∧
  ∀ s : State, s.inReset = false → s.session.abortHold = some 0 → s.session.phase = .lobby →
    (s.session.ready = false ∨
      (s.setSession { s.session with abortHold := none }).recomputeLobby.resolveRule.conditionA = false) →
    ∃ t, exec .abortHoldExpiry s = .next t ∧ t.session.abortHold = none ∧ t.session.phase = .lobby ∧
      t.session.ready = s.session.ready ∧ (∀ st, member t.session.lobbySet st = s.gathers st) ∧
      t.session.rule = ruleOf t.commonOffer ∧ t.session.lastAbort = s.session.lastAbort ∧
      t.pending = s.pending ∧ t.store = s.store ∧ t.bus = s.bus ∧ t.link = s.link ∧ t.clock = s.clock ∧
      t.table = s.table ∧ t.motion = s.motion ∧ t.prox = s.prox ∧ t.standings = s.standings

/-- Condition A holds exactly when the player is ready, no abort is held, the clock is LOCKED, two or more stations
gather, a rule is resolved, and every other member's stored beacon shows READY, no ABORT, the own lobby set as its
roster and the own rule as its rule (R91). Entry to PROPOSING freezes the lobby set as the roster, holds the rule,
proposes C plus the start lead rounded up to a multiple of 1000 µs, and records every other member's proposal from its
stored beacon (R92, R93). A re-evaluation in LOBBY, which every apply starts, of a beacon or of a car frame, resolves
the rule over the lobby set, latching RULE_CHANGE when it changes and CLEARDOWN when it is NONE with two members or
more while the cleardown mark was clear (R85, R86), and enters PROPOSING exactly when Condition A then holds; the
change of phase is a re-evaluation again, which aborts, waits in PROPOSING, or goes on to ARMED and to the start
instant (R82, R91, R94, R96, R97, R102). That C plus the lead wraps before it is rounded (assumption 16), and that a
start already reached is taken at once (assumption 15), is the model's reading. -/
def Obligations.EnteringProposing : Prop :=
  (∀ s : State, s.conditionA = true ↔
     s.session.ready = true ∧ s.session.abortHold = none ∧ s.clock.state = .locked ∧
       2 ≤ (members s.session.lobbySet).length ∧
       ∃ r : Rule, s.session.rule = some r ∧
         ∀ st, member s.session.lobbySet st = true → st ≠ s.own →
           ∃ tag b, (s.table.at st).beacon = some (tag, b) ∧ b.ready = true ∧ b.abort = false ∧
             b.roster = s.session.lobbySet ∧ b.rule.isNone = false ∧ b.rule.course = r.course ∧
             b.rule.lapCode = r.lapCode ∧ b.rule.options = r.options) ∧
  (∀ s : State, member s.session.lobbySet s.own = true →
     s.enterProposing.session.phase = .proposing ∧ s.enterProposing.session.roster = some s.session.lobbySet ∧
     s.enterProposing.session.held = true ∧ s.enterProposing.session.rule = s.session.rule ∧
     s.enterProposing.session.proposalOf s.own = some (BitVec.ofNat 32
       (((s.now + BitVec.ofNat 32 s.store.startLead).toNat + 999) / 1000 * 1000)) ∧
     (∀ st, st ≠ s.own → s.enterProposing.session.proposalOf st =
       if member s.session.lobbySet st then s.carriedProposal st else none) ∧
     s.enterProposing.session.tag = s.session.tag ∧ s.enterProposing = s.setSession s.enterProposing.session) ∧
  (∀ s : State, s.inReset = false → s.session.phase = .lobby →
     let u := s.recomputeLobby.resolveRule
     let v := u.enterProposing
     let w := v.enterArmed
     (∀ st, member u.session.lobbySet st = s.gathers st) ∧ u.session.rule = ruleOf u.commonOffer ∧
     (u.session.cleardownMark = true ↔ u.session.rule = none ∧ 2 ≤ (members u.session.lobbySet).length) ∧
     (∀ e : Event, u.port.latched e = (s.port.latched e ||
       (decide (e = .ruleChange) && decide (u.session.rule ≠ s.session.rule)) ||
       (decide (e = .cleardown) && u.session.cleardownMark && !s.session.cleardownMark))) ∧
     u.session = { s.session with
       lobbySet := u.session.lobbySet, rule := u.session.rule, cleardownMark := u.session.cleardownMark } ∧
     u = (s.setSession u.session).setPort u.port ∧
     (u.conditionA = false → s.reevaluate = u) ∧
     (∀ cause st, u.conditionA = true → v.breach = some (cause, st) → s.reevaluate = v.abort cause st) ∧
     (u.conditionA = true → v.breach = none →
       (∃ st, member u.session.lobbySet st = true ∧ v.session.proposalOf st = none) → s.reevaluate = v) ∧
     (∀ start, u.conditionA = true → v.breach = none →
       (∀ st, member u.session.lobbySet st = true → (v.session.proposalOf st).isSome = true) →
       w.session.agreed = some start →
       (tdiff s.now start < 0 → s.reevaluate = w) ∧
       (0 ≤ tdiff s.now start → exec .startInstant w = .next s.reevaluate)) ∧
     (∀ (f : Frame) (b : Beacon) (ta : Time), f.body = .beacon b → ∃ r : State,
       s.applyFrame f ta = r.reevaluate ∧ (∀ st, st ≠ f.sender → r.table.at st = s.table.at st) ∧
       (r.table.at f.sender).beacon = some (f.tag, b) ∧ (r.table.at f.sender).lastKind = .beacon ∧
       r = s.setTable r.table) ∧
     (∀ (f : Frame) (c : CarRecord) (ta : Time), f.body = .car c → ∃ r : State,
       s.applyFrame f ta = r.reevaluate ∧ (∀ st, st ≠ f.sender → r.table.at st = s.table.at st) ∧
       (r.table.at f.sender).beacon = (s.table.at f.sender).beacon ∧
       (r.table.at f.sender).car = some (f.tag, c) ∧ (r.table.at f.sender).lastKind = .car ∧
       r = s.setTable r.table))

/-- Condition B holds exactly when the clock is LOCKED, the own ready flag is set, and every other roster member meets
items 1 to 8; when it fails, the cause is CLOCK, or the lowest-numbered failing member (R94, R95, R96). Entry to ARMED
takes the latest recorded proposal as the agreed start, derives the session tag from it, sets the own record to the
grid and latches ARMED (R97, R108, R109). A re-evaluation in PROPOSING or ARMED, which every apply starts, a beacon's
once its proposal is recorded, aborts when Condition B fails and enters ARMED once every proposal is recorded (R82,
R93, R96, R98, R99). An abort clears the cleardown mark before its re-evaluation resolves the rule afresh (R85, R86).
Which of two proposals is the later (assumption 16), and that a start already reached is taken at once (assumption 15),
is the model's reading. So a car frame of another roster member aborts the countdown, in PROPOSING always, and in ARMED
when its session tag is not the own, with cause MEMBER and the sender's number where Condition B held before; in ARMED,
with Condition B holding, one of the own session tag leaves all of the session but the lobby set (R62, R82, R94, R95,
R96). -/
def Obligations.EnteringArmed : Prop :=
  (∀ (s : State) (roster : StationSet) (r : Rule), s.session.roster = some roster → s.session.rule = some r →
     let meets := fun st : Station =>
       ((s.link.at st).presence = .present ∨ (s.link.at st).presence = .fading) ∧
       ((s.table.at st).lastKind = .beacon ∨
         (s.session.phase = .armed ∧ (s.table.at st).lastKind = .car ∧
           ∃ c, (s.table.at st).car = some (s.session.tag, c))) ∧
       ∃ tag b, (s.table.at st).beacon = some (tag, b) ∧ b.ready = true ∧ b.abort = false ∧ b.roster = roster ∧
         b.rule = { isNone := false, course := r.course, lapCode := r.lapCode, options := r.options } ∧
         (∀ p, s.session.proposalOf st = some p → b.proposal = some p)
     (s.breach = none ↔ s.clock.state = .locked ∧ s.session.ready = true ∧
       ∀ st, member roster st = true → st ≠ s.own → meets st) ∧
     (s.clock.state ≠ .locked → s.breach = some (.clock, none)) ∧
     (∀ st, s.clock.state = .locked → (s.breach = some (.member, some st) ↔
       member roster st = true ∧ st ≠ s.own ∧ ¬ meets st ∧
         ∀ st', member roster st' = true → st' ≠ s.own → st' < st → meets st'))) ∧
  (∀ (s : State) (roster : StationSet), s.session.roster = some roster → member roster s.own = true →
     (∀ st, member roster st = true → (s.session.proposalOf st).isSome = true) →
     ∃ start : Time, s.enterArmed.session.agreed = some start ∧
       (∃ st, member roster st = true ∧ s.session.proposalOf st = some start) ∧
       ((∀ a b, member roster a = true → member roster b = true →
           ∀ p q, s.session.proposalOf a = some p → s.session.proposalOf b = some q → (tdiff p q).natAbs < 1073741824) →
         ∀ st p, member roster st = true → s.session.proposalOf st = some p → tdiff p start ≤ 0) ∧
       s.enterArmed.session.phase = .armed ∧ s.enterArmed.session.tag ≠ 0 ∧
       (s.enterArmed.session.tag.toNat = start.toNat / 1000 % 256 ∨
         (start.toNat / 1000 % 256 = 0 ∧ s.enterArmed.session.tag = 1)) ∧
       s.enterArmed.motion.live = some
         { lap := 0, position := 0, speed := 0, accel := 0, lateral := 0, inPit := false, offTrack := false,
           respawn := false, recordTime := start, finish := none } ∧
       s.enterArmed.motion.frozen =
         (if s.table.freeze.isSome then s.enterArmed.motion.live else s.motion.frozen) ∧
       s.enterArmed.port.latched .armed = true ∧ s.enterArmed.session.roster = some roster ∧
       s.enterArmed.table = s.table ∧ s.enterArmed.bus = s.bus ∧ s.enterArmed.clock = s.clock ∧
       s.enterArmed.link = s.link ∧ s.enterArmed.standings = s.standings) ∧
  (∀ (s : State) (cause : AbortCause) (st : Option Station),
     let t := s.abort cause st
     t.session.phase = .lobby ∧ t.session.ready = s.session.ready ∧ t.session.roster = none ∧
     (∀ x, t.session.proposalOf x = none) ∧ t.session.agreed = none ∧ t.session.tag = 0 ∧ t.session.held = false ∧
     t.session.abortHold = some 250000 ∧ t.session.lastAbort = some (cause, st) ∧
     t.motion = { live := none, frozen := none } ∧ t.port.latched .aborted = true ∧
     (∀ x, member t.session.lobbySet x = s.gathers x) ∧ t.session.rule = ruleOf t.commonOffer ∧
     (t.session.cleardownMark = true ↔ t.session.rule = none ∧ 2 ≤ (members t.session.lobbySet).length) ∧
     (∀ e : Event, t.port.latched e = (s.port.latched e || decide (e = .aborted) ||
       (decide (e = .ruleChange) && decide (t.session.rule ≠ s.session.rule)) ||
       (decide (e = .cleardown) && t.session.cleardownMark))) ∧
     t = ((s.setSession t.session).setMotion t.motion).setPort t.port) ∧
  (∀ s : State, s.inReset = false → s.session.phase = .proposing ∨ s.session.phase = .armed →
     let u := s.recomputeLobby
     let w := u.enterArmed
     (∀ st, member u.session.lobbySet st = s.gathers st) ∧
     u = s.setSession { s.session with lobbySet := u.session.lobbySet } ∧
     (∀ cause st, u.breach = some (cause, st) → s.reevaluate = u.abort cause st) ∧
     (u.breach = none → s.session.phase = .armed → s.reevaluate = u) ∧
     (u.breach = none → (∃ st, member (s.session.roster.getD 0) st = true ∧ s.session.proposalOf st = none) →
       s.reevaluate = u) ∧
     (∀ start, u.breach = none → s.session.phase = .proposing →
       (∀ st, member (s.session.roster.getD 0) st = true → (s.session.proposalOf st).isSome = true) →
       w.session.agreed = some start →
       (tdiff s.now start < 0 → s.reevaluate = w) ∧
       (0 ≤ tdiff s.now start → exec .startInstant w = .next s.reevaluate)) ∧
     (∀ (f : Frame) (b : Beacon) (ta : Time), f.body = .beacon b → ∃ r : State,
       s.applyFrame f ta = r.reevaluate ∧
       (∀ st, st ≠ f.sender → r.table.at st = s.table.at st) ∧
       (r.table.at f.sender).beacon = some (f.tag, b) ∧ (r.table.at f.sender).lastKind = .beacon ∧
       (∀ st, r.session.proposalOf st =
         if st = f.sender ∧ st ≠ s.own ∧ (∃ roster, s.session.roster = some roster ∧ member roster st = true) ∧
             s.session.proposalOf st = none then b.proposal
         else s.session.proposalOf st) ∧
       r = (s.setTable r.table).setSession { s.session with proposals := r.session.proposals }) ∧
     (∀ (f : Frame) (c : CarRecord) (ta : Time), f.body = .car c →
       (∃ r : State, s.applyFrame f ta = r.reevaluate ∧ (∀ st, st ≠ f.sender → r.table.at st = s.table.at st) ∧
         (r.table.at f.sender).beacon = (s.table.at f.sender).beacon ∧
         (r.table.at f.sender).car = some (f.tag, c) ∧ (r.table.at f.sender).lastKind = .car ∧
         r = s.setTable r.table) ∧
       (∀ roster, s.session.roster = some roster → member roster f.sender = true → f.sender ≠ s.own →
         let t := s.applyFrame f ta
         (s.session.phase = .proposing ∨ f.tag ≠ s.session.tag →
           t.session.phase = .lobby ∧ t.session.roster = none ∧ t.session.abortHold = some 250000 ∧
           t.port.latched .aborted = true ∧
           (s.breach = none → t.session.lastAbort = some (.member, some f.sender))) ∧
         (s.session.phase = .armed → f.tag = s.session.tag → s.breach = none →
           t.session = { s.session with lobbySet := t.session.lobbySet }))))

/-! ## The race -/

/-- The start instant: RACING, STARTED latched, one starter per roster member, RUNNING unless its presence is LOST, the
race limit 1,800,000,000 µs after the agreed start, and the Proximity Monitor cleared with its timer at one gap when
enabled (R102, R149, R153). -/
def Obligations.StartInstantStartsTheRace : Prop :=
  ∀ (s : State) (roster : StationSet) (start : Time), s.inReset = false → s.session.phase = .armed →
    s.session.roster = some roster → s.session.agreed = some start → 0 ≤ tdiff s.now start →
    ∃ t, exec .startInstant s = .next t ∧ t.session.phase = .racing ∧ t.port.latched .started = true ∧
      t.session.roster = some roster ∧ t.session.agreed = some start ∧ t.session.tag = s.session.tag ∧
      t.session.limit = some (start + 1800000000#32) ∧ t.session.earliest = none ∧ t.session.deadline = none ∧
      (∀ st, member roster st = false → t.standings.at st = none) ∧
      (∀ st, member roster st = true → st ≠ s.own → (s.link.at st).presence = .lost →
        ∃ d, t.standings.at st = some { status := .lost, finish := none, heldAt := some d } ∧
          d = (s.presentRecord st s.now).distance) ∧
      (∀ st, member roster st = true → (st = s.own ∨ (s.link.at st).presence ≠ .lost) →
        t.standings.at st = some { status := .running, finish := none, heldAt := none }) ∧
      t.standings.final = none ∧ t.standings.overAt = none ∧ t.standings.cause = none ∧
      (∀ st, t.prox.at st = ProxEntry.clear) ∧ t.prox.position = 0 ∧ t.prox.enabled = s.prox.enabled ∧
      t.prox.timer = (if s.prox.enabled then some s.store.sweepGap else none) ∧
      (∀ e : Event, e ≠ .started → t.port.latched e = s.port.latched e) ∧
      t.pending = s.pending ∧ t.store = s.store ∧ t.bus = s.bus ∧ t.link = s.link ∧ t.clock = s.clock ∧
      t.table = s.table ∧ t.motion = s.motion ∧ t.patterns = s.patterns

/-- The finish deadline or the race limit reached in RACING or FINISHED ends the race: RESULTS, RACE_OVER latched, the
race-over instant C, every RUNNING or LOST starter UNFINISHED, the final list formed with them, the cause the first of
R164 that holds, the sweep stopped (R164, R165). That the list presents the own car from the live copy is the model's
reading (assumption 17). -/
def Obligations.RaceOverFixesTheResult : Prop :=
  ∀ (i : Instr) (s : State) (at' : Time), s.inReset = false → s.session.phase.inRace = true →
    ((i = .finishDeadline ∧ s.session.deadline = some at') ∨ (i = .raceLimit ∧ s.session.limit = some at')) →
    0 ≤ tdiff s.now at' →
    ∃ t, exec i s = .next t ∧ t.session.phase = .results ∧ t.port.latched .raceOver = true ∧
      t.standings.overAt = some s.now ∧
      t.standings.cause = some (if s.allDone then .allDone
        else if s.passed s.session.deadline then .finishWindow else .raceLimit) ∧
      (∀ st, t.standings.at st = (s.standings.at st).map fun r =>
        if r.status = .running ∨ r.status = .lost then { r with status := .unfinished } else r) ∧
      t.standings.final = some (State.formList
        (s.setStandings { t.standings with final := s.standings.final }) s.motion.live s.now) ∧
      t.session.deadline = none ∧ t.session.limit = none ∧ t.session.roster = s.session.roster ∧
      t.session.agreed = s.session.agreed ∧ t.session.tag = s.session.tag ∧ t.prox = { s.prox with timer := none } ∧
      (∀ e : Event, e ≠ .raceOver → t.port.latched e = s.port.latched e) ∧
      t.pending = s.pending ∧ t.store = s.store ∧ t.bus = s.bus ∧ t.link = s.link ∧ t.clock = s.clock ∧
      t.table = s.table ∧ t.motion = s.motion ∧ t.patterns = s.patterns

/-- A finish claim is taken exactly under the five conditions of R155: the starter is FINISHED with the claim's time
and no held distance, PEER_FINISHED latches for a peer alone, and the earliest finish time and the deadline follow
R163: the deadline stands one finish window after the earliest finish time, until race over removes it; a claim not
taken changes nothing (R155, R156, R163). A starter RUNNING is LOST at a window expiry exactly when the Link Monitor
moves it from FADING to LOST, its presented distance at C held (R157); one LOST is RUNNING again at its return, the
distance still held, or DNF if its timeout had passed (R158, R159); one that stays LOST is DNF from its timeout on, as
the order of the same expiry's work leaves open within the slew (R159; assumption 4). A frame applied withdraws its
sender, or releases its held distance, by R158 and R160. Which of two finish times is the earlier (assumption 16), that
a starter lost again while a held distance is in force is held anew (assumption 17), and that the earliest finish time
stands where the claim ends the race (assumption 25), is the model's reading. -/
def Obligations.ClaimsAreTakenOnce : Prop :=
  (∀ (s : State) (st : Station) (finish : Time) (tag : Byte),
    (s.claimHolds st finish tag = true ↔ s.session.phase.inRace = true ∧
      (∃ r, s.standings.at st = some r ∧ (r.status = .running ∨ r.status = .lost)) ∧ tag = s.session.tag ∧
      0 ≤ tdiff finish (s.session.agreed.getD 0)) ∧
    (s.claimHolds st finish tag = false → s.offerClaim st finish tag = s) ∧
    (s.claimHolds st finish tag = true →
      (s.offerClaim st finish tag).standings.at st =
        some { status := .finished, finish := some finish, heldAt := none } ∧
      (s.offerClaim st finish tag).port.latched .peerFinished =
        (s.port.latched .peerFinished || decide (st ≠ s.own)) ∧
      (s.offerClaim st finish tag).session.earliest = some (match s.session.earliest with
        | none => finish
        | some e => if 0 < tdiff e finish then finish else e) ∧
      (s.offerClaim st finish tag).session.deadline =
        (if (s.offerClaim st finish tag).session.phase = .results then none
        else match s.session.earliest with
          | none => some (finish + BitVec.ofNat 32 (s.store.finishWindow * 1000000))
          | some e => if 0 < tdiff e finish then some (finish + BitVec.ofNat 32 (s.store.finishWindow * 1000000))
            else s.session.deadline) ∧
      ((s.offerClaim st finish tag).session.phase = .results ↔
        ∀ x r, x ≠ st → s.standings.at x = some r →
          r.status = .finished ∨ r.status = .dnf ∨ r.status = .withdrawn))) ∧
  (∀ (s : State) (st : Station) (r : Starter), s.inReset = false → s.link.window = 0 →
    s.session.phase.inRace = true → s.store.InRange → s.standings.at st = some r →
    let x := s.link.at st
    let lost := x.presence = .fading ∧ x.count.toNat < s.store.off ∧ min (x.fade + 1) s.store.dropout = s.store.dropout
    let timeout : Int := s.store.dnfTimeout * 1000000
    ∃ t, exec .windowExpiry s = .next t ∧
      (r.status = .running → lost →
        t.standings.at st = some { r with status := .lost, heldAt := some (s.presentRecord st s.now).distance }) ∧
      (r.status = .running → ¬ lost → t.standings.at st = some r) ∧
      (∀ entered, r.status = .lost → x.presence = .lost → x.lostAt = some entered →
        (s.store.on ≤ x.count.toNat →
          t.standings.at st = some { r with status := .running } ∨
            (timeout ≤ tdiff s.now entered ∧ t.standings.at st = some { r with status := .dnf })) ∧
        (x.count.toNat < s.store.on → timeout ≤ tdiff s.now entered → tdiff s.now entered < 2147483147 →
          t.standings.at st = some { r with status := .dnf }) ∧
        (x.count.toNat < s.store.on → 0 ≤ tdiff s.now entered → tdiff s.now entered + s.store.slew < timeout →
          t.standings.at st = some r))) ∧
  (∀ (s : State) (f : Frame) (ta : Time) (r : Starter), s.session.phase.inRace = true → f.sender ≠ s.own →
    s.standings.at f.sender = some r → (r.status = .running ∨ r.status = .lost) →
    let after := (s.applyFrame f ta).standings.at f.sender
    (∀ b, f.body = .beacon b → ¬ (b.phase = .armed ∧ f.tag = s.session.tag) →
      after = some { r with status := .withdrawn, heldAt := none }) ∧
    (∀ b, f.body = .beacon b → b.phase = .armed → f.tag = s.session.tag → after = some r) ∧
    (∀ c, f.body = .car c → f.tag ≠ s.session.tag → after = some { r with status := .withdrawn, heldAt := none }) ∧
    (∀ c, f.body = .car c → f.tag = s.session.tag →
      match c.finish with
      | some finish =>
        if 0 ≤ tdiff finish (s.session.agreed.getD 0) then
          after = some { status := .finished, finish := some finish, heldAt := none }
        else after = some (if r.status = .running then { r with heldAt := none } else r)
      | none => after = some (if r.status = .running then { r with heldAt := none } else r)))

/-- FINISHED, DNF and WITHDRAWN are final, and a finish time once set does not change, whatever command is taken, until
LEAVE, NEW RACE or a reset (R154, R155). -/
def Obligations.FinalStatusesAreFinal : Prop :=
  ∀ (i : Instr) (s t : State) (st : Station) (r : Starter), exec i s = .next t →
    s.session.phase.hasStandings = true → ¬ s.resetBy i → i ≠ .leave → i ≠ .newRace →
    s.standings.at st = some r → r.status = .finished ∨ r.status = .dnf ∨ r.status = .withdrawn →
    t.standings.at st = some r

/-- A standings list holds each starter exactly once, in places 1 to n without gaps, in the groups of R161: FINISHED by
finish time and then station; then RUNNING, LOST and UNFINISHED by falling distance and then station; then DNF and then
WITHDRAWN by station (R161). For the order, finish times are not before the agreed start (R155). Its entries hold the
values of R167 and R168: the distance as presented at the list's evaluation time, the lap, the elapsed time, the finish
time, GAPT and GAPD against place 1, DELTA against the own entry. The own car is presented from the copy of its record
by extrapolation alone, a peer at its held distance where one is in force, else from its record of the race with its
residual, else from the starting record (R123, R125, R126, R127, R128). Which of two finish times is the earlier is the
model's reading (assumption 16), as is what a held car without a record of the race shows, and STALE on a car shown
from the starting record (assumption 17); that an own car without a copy of its record is shown from the starting
record is its choice (assumption 20). -/
def Obligations.StandingsListsAreOrdered : Prop :=
  (∀ (s : State) (copy : Option CarRecord) (t : Time),
     ((s.formList copy t).map Standing.place = List.range' 1 (s.formList copy t).length) ∧
     ((s.formList copy t).map Standing.station).Perm (stations.filter fun st => (s.standings.at st).isSome)) ∧
  (∀ (s : State) (copy : Option CarRecord) (t : Time),
     (∀ st r, s.standings.at st = some r → r.status = .finished →
       0 ≤ tdiff (r.finish.getD 0) (s.session.agreed.getD 0)) →
     let group := fun x : Standing =>
       if x.status = .finished then 1 else if x.status = .dnf then 3 else if x.status = .withdrawn then 4 else 2
     (s.formList copy t).Pairwise fun x y =>
       group x < group y ∨ (group x = group y ∧
         ((group x = 1 ∧ (0 < tdiff (y.finish.getD 0) (x.finish.getD 0) ∨
             (x.finish = y.finish ∧ x.station < y.station))) ∨
           (group x = 2 ∧ (y.distance < x.distance ∨ (x.distance = y.distance ∧ x.station < y.station))) ∨
           (2 < group x ∧ x.station < y.station)))) ∧
  (∀ (s : State) (copy : Option CarRecord) (t : Time) (x : Standing), x ∈ s.formList copy t →
     let start := s.session.agreed.getD 0
     ∃ r, s.standings.at x.station = some r ∧ x.status = r.status ∧
       x.distance = (if r.status = .finished then s.laps * s.courseLength
         else (s.present copy x.station t).distance) ∧
       x.lap = (if r.status = .finished then s.laps else x.distance / s.courseLength) ∧
       x.elapsed = (match r.status with
         | .finished => some ((tdiff (r.finish.getD 0) start).toNat / 1000)
         | .running | .lost => some ((tdiff t start).toNat / 1000)
         | .unfinished => some ((tdiff (s.standings.overAt.getD t) start).toNat / 1000)
         | .dnf | .withdrawn => none) ∧
       x.finish = (if r.status = .finished then some (r.finish.getD 0) else none) ∧
       (∀ first, (s.formList copy t).head? = some first →
         x.gapT = (if x.status = .finished ∧ first.status = .finished then
           some ((tdiff (x.finish.getD 0) (first.finish.getD 0)).toNat / 1000) else none) ∧
         x.gapD = (if x.status = .running ∨ x.status = .lost ∨ x.status = .unfinished then
           some ((first.distance - x.distance) / 100) else none)) ∧
       (∀ own ∈ s.formList copy t, own.station = s.own →
         x.delta = if x.status = .dnf ∨ x.status = .withdrawn then none
           else some (Int.tdiv ((own.distance : Int) - x.distance) 100))) ∧
  (∀ (s : State) (st : Station) (copy : Option CarRecord) (t : Time),
     let y := s.table.at st
     let moving := fun (c : CarRecord) (d : Nat) =>
       ({ distance := d, speed := s.track.speed c t, lateral := c.lateral, stale := s.track.stale c t,
          inPit := c.inPit, offTrack := c.offTrack, finished := c.finish.isSome, noRecord := false } : Presented)
     let grid : Presented :=
       { distance := 0, speed := 0, lateral := 0,
         stale := decide ((s.store.horizon : Int) < tdiff t (s.session.agreed.getD 0)),
         inPit := false, offTrack := false, finished := false, noRecord := true }
     let ofTheRace := fun c : CarRecord => s.session.tag ≠ 0 ∧ y.car = some (s.session.tag, c)
     s.present copy st t = (if st = s.own then s.presentOwn copy t else s.presentPeer st t) ∧
     (∀ c, s.presentOwn (some c) t = moving c (s.track.distance c t)) ∧ s.presentOwn none t = grid ∧
     ((∀ r, s.standings.at st = some r → r.heldAt = none) → s.presentPeer st t = s.presentRecord st t) ∧
     (∀ r d, s.standings.at st = some r → r.heldAt = some d →
       (∀ c, ofTheRace c → s.presentPeer st t = { moving c d with speed := 0, stale := true }) ∧
       ((∀ c, ¬ ofTheRace c) → s.presentPeer st t = { grid with distance := d, stale := true, noRecord := false })) ∧
     (∀ c, ofTheRace c →
       s.presentRecord st t = moving c (s.track.blended s.store.blend c y.residual y.blendStart t)) ∧
     ((∀ c, ¬ ofTheRace c) → s.presentRecord st t = grid))

/-! ## The own car and car motion -/

/-- A plain post in ARMED, RACING and FINISHED stores the clamped lap and position, the operands as given and the
record time, and moves nothing else (R109 to R112); after the own finish a post keeps FINISHED, the finish time, the
race laps and position 0 (R114), and steps 1 to 3 of R111 and R112 set the clamped mark (R110). That step 4 of R111
then sets none is the model's reading (assumption 18). -/
def Obligations.PostCarStoresTheRecord : Prop :=
  (∀ (p : CarPost) (s : State), s.hears (.postCar p) → s.session.phase = .armed ∨ s.session.phase.inRace = true →
     s.liveFinish = none → (p.flags.getLsbD 3 = false ∨ s.session.phase ≠ .racing) →
     let age := (clampInt 0 20000 p.age.toInt).toNat
     let early := s.session.phase.inRace = true ∧ tdiff (s.now - BitVec.ofNat 32 age) (s.session.agreed.getD 0) < 0
     let lap := min p.lap.toNat s.laps
     let position := min p.position.toNat (s.courseLength - 1)
     let raw := lap * s.courseLength + position
     let d := min raw (s.laps * s.courseLength - 1)
     ∃ c : CarRecord, ∃ clamped : Bool,
       c.lap = BitVec.ofNat 8 (d / s.courseLength) ∧ c.position = BitVec.ofNat 24 (d % s.courseLength) ∧
       c.speed = p.speed ∧ c.accel = p.accel ∧ c.lateral = p.lateral ∧ c.inPit = p.flags.getLsbD 0 ∧
       c.offTrack = p.flags.getLsbD 1 ∧ c.respawn = p.flags.getLsbD 2 ∧ c.finish = none ∧
       (early → c.recordTime = s.session.agreed.getD 0) ∧
       (¬ early → c.recordTime = s.now - BitVec.ofNat 32 age) ∧
       (clamped = true ↔ (age : Int) ≠ p.age.toInt ∨ early ∨ lap ≠ p.lap.toNat ∨ position ≠ p.position.toNat ∨ d ≠ raw ∨
         (p.flags.getLsbD 3 = true ∧ s.session.phase = .armed)) ∧
       exec (.postCar p) s = .next ((s.setMotion { s.motion with live := some c }).answering .ok
         (be4 c.recordTime ++ [c.lap] ++ be3 c.position ++ [if clamped then 1#8 else 0#8] ++ [0, 0, 0, 0]))) ∧
  (∀ (p : CarPost) (s : State) (finish : Time), s.hears (.postCar p) →
     s.session.phase = .armed ∨ s.session.phase.inRace = true → s.liveFinish = some finish →
     let age := (clampInt 0 20000 p.age.toInt).toNat
     let early := s.session.phase.inRace = true ∧ tdiff (s.now - BitVec.ofNat 32 age) (s.session.agreed.getD 0) < 0
     ∃ (c : CarRecord) (clamped : Bool), c.finish = some finish ∧ c.lap = BitVec.ofNat 8 s.laps ∧ c.position = 0 ∧
       c.speed = p.speed ∧ c.accel = p.accel ∧ c.lateral = p.lateral ∧ c.inPit = p.flags.getLsbD 0 ∧
       c.offTrack = p.flags.getLsbD 1 ∧ c.respawn = p.flags.getLsbD 2 ∧
       (early → c.recordTime = s.session.agreed.getD 0) ∧
       (¬ early → c.recordTime = s.now - BitVec.ofNat 32 age) ∧
       (clamped = true ↔ (age : Int) ≠ p.age.toInt ∨ early ∨ min p.lap.toNat s.laps ≠ p.lap.toNat ∨
         min p.position.toNat (s.courseLength - 1) ≠ p.position.toNat) ∧
       exec (.postCar p) s = .next ((s.setMotion { s.motion with live := some c }).answering .ok
         (be4 c.recordTime ++ [c.lap] ++ be3 c.position ++ [if clamped then 3#8 else 2#8] ++ be4 finish)))

/-- A post with FINISHED in RACING is the own finish: the car stands at the finish distance, the finish time is the
record time, the phase leaves RACING, the sweep stops, the own starter is FINISHED, and no event latches but RACE_OVER
(R113, R135, R156); the race is over at once exactly when no other starter is still in the race (R163). The record time
is C less the clamped age, or the agreed start where that lies later (R112), the flags are as posted, and the response
is R110's. That steps 1 to 3 of R111 and R112 alone set the clamped mark is the model's reading (assumption 18). -/
def Obligations.TheOwnFinish : Prop :=
  ∀ (p : CarPost) (s : State) (r : Starter), s.hears (.postCar p) → s.session.phase = .racing → s.liveFinish = none →
    p.flags.getLsbD 3 = true → s.standings.at s.own = some r → (r.status = .running ∨ r.status = .lost) →
    let age := (clampInt 0 20000 p.age.toInt).toNat
    let early := tdiff (s.now - BitVec.ofNat 32 age) (s.session.agreed.getD 0) < 0
    ∃ (t : State) (c : CarRecord) (finish : Time) (clamped : Bool), exec (.postCar p) s = .next t ∧
      t.motion = { s.motion with live := some c } ∧ c.finish = some finish ∧ finish = c.recordTime ∧
      (early → c.recordTime = s.session.agreed.getD 0) ∧ (¬ early → c.recordTime = s.now - BitVec.ofNat 32 age) ∧
      c.lap = BitVec.ofNat 8 s.laps ∧ c.position = 0 ∧ c.speed = p.speed ∧ c.accel = p.accel ∧ c.lateral = p.lateral ∧
      c.inPit = p.flags.getLsbD 0 ∧ c.offTrack = p.flags.getLsbD 1 ∧ c.respawn = p.flags.getLsbD 2 ∧
      (clamped = true ↔ (age : Int) ≠ p.age.toInt ∨ early ∨ min p.lap.toNat s.laps ≠ p.lap.toNat ∨
        min p.position.toNat (s.courseLength - 1) ≠ p.position.toNat) ∧
      t.port.response = 0x00#8 :: (be4 finish ++ [BitVec.ofNat 8 s.laps, 0, 0, 0, if clamped then 3#8 else 2#8] ++
        be4 finish) ∧
      0 ≤ tdiff finish (s.session.agreed.getD 0) ∧
      t.standings.at s.own = some { status := .finished, finish := some finish, heldAt := none } ∧
      (t.session.phase = .results ↔ ∀ x q, x ≠ s.own → s.standings.at x = some q →
        q.status = .finished ∨ q.status = .dnf ∨ q.status = .withdrawn) ∧
      (t.session.phase = .results ∨ t.session.phase = .finished) ∧ t.prox = { s.prox with timer := none } ∧
      (∀ e : Event, t.port.latched e =
        (s.port.latched e || (decide (e = .raceOver) && decide (t.session.phase = .results)))) ∧
      t.port.mask = s.port.mask ∧ t.port.details = s.port.details ∧ t.session.roster = s.session.roster ∧
      t.session.agreed = s.session.agreed ∧ t.session.tag = s.session.tag ∧
      t.pending = s.pending ∧ t.store = s.store ∧ t.bus = s.bus ∧ t.link = s.link ∧ t.clock = s.clock ∧
      t.table = s.table ∧ t.patterns = s.patterns

/-- The distance of a record at its record time, the span held between 0 and the horizon, STALE, the halt, the
extrapolated distance and speed, what a blend adds to it, and the residual of a car apply, 0 in the cases of R122, are
those of R116 to R123. One evaluation carries a car at most 49,152 tu, rounded once to the nearest tu, halves away from
zero (R119). A car whose record does not carry FINISHED is shown between 0 and the finish distance minus 1, by
extrapolation and by blending alike; one whose record carries it stands at the finish distance; the shown speed is
within 32,767 cm/s; a halted car has speed 0; a residual never exceeds the snap threshold (R118, R120, R121, R122,
R123). -/
def Obligations.PresentationsAreBounded : Prop :=
  (∀ (v a : BitVec 16) (span : Nat), span ≤ 1000000 →
     let whole : Int := 2 * v.toInt * span * 1000000 + a.toInt * (span * span : Nat)
     let error : Int := whole - 2000000000000 * travelled v.toInt a.toInt span
     (travelled v.toInt a.toInt span).natAbs ≤ 49152 ∧ (2 * error).natAbs ≤ 2000000000000 ∧
     ((2 * error).natAbs = 2000000000000 →
       whole.natAbs < (2000000000000 * travelled v.toInt a.toInt span).natAbs)) ∧
  (∀ (k : Track) (c : CarRecord) (t : Time),
     let v := c.speed.toInt
     let a := c.accel.toInt
     let placed := min c.lap.toNat k.laps * k.length + min c.position.toNat (k.length - 1)
     let since := tdiff t c.recordTime
     let reach := min since.toNat k.horizon
     let halt := v.natAbs * 1000000 / a.natAbs
     let halts := decide (((0 < v ∧ a < 0) ∨ (v < 0 ∧ 0 < a)) ∧ halt < reach)
     let span := if halts then halt else reach
     k.recordDistance c = (if c.finish.isSome then k.laps * k.length else min placed (k.laps * k.length - 1)) ∧
     (k.stale c t = true ↔ (k.horizon : Int) < since) ∧ k.halted c t = halts ∧ k.span c t = span ∧
     k.speed c t = (if halts then 0 else max (-32767) (min 32767 (v + Int.tdiv (a * span) 1000000))) ∧
     k.distance c t = (if c.finish.isSome then k.laps * k.length
       else (max 0 (min (((k.laps * k.length : Nat) : Int) - 1) (k.recordDistance c + travelled v a span))).toNat)) ∧
  (∀ (k : Track) (c : CarRecord) (blend : Nat) (e : Int) (ta t : Time),
     let left := blend - min blend (tdiff t ta).toNat
     let term := if blend = 0 then 0 else Int.tdiv (e * left) blend
     k.blended blend c e ta t = if c.finish.isSome then k.laps * k.length
       else (max 0 (min (((k.laps * k.length : Nat) : Int) - 1) (k.distance c t + term))).toNat) ∧
  (∀ (s : State) (st : Station) (tag : Byte) (c : CarRecord) (ta : Time),
     let y := s.table.at st
     let k : Track := { length := s.courseLength, laps := s.laps, horizon := s.store.horizon }
     let zero := s.session.tag = 0 ∨ tag ≠ s.session.tag ∨ (∀ old, y.car ≠ some (s.session.tag, old)) ∨
       c.respawn = true ∨ s.store.blend = 0 ∨ ∃ r d, s.standings.at st = some r ∧ r.heldAt = some d
     (zero → s.newResidual st tag c ta = 0) ∧
     (∀ old, ¬ zero → y.car = some (s.session.tag, old) →
       let e : Int := (k.blended s.store.blend old y.residual y.blendStart ta : Int) - k.distance c ta
       s.newResidual st tag c ta = if s.store.snap < e.natAbs then 0 else e)) ∧
  ((∀ (k : Track) (c : CarRecord) (blend : Nat) (e : Int) (ta t : Time), 0 < k.finish →
     (c.finish = none → k.distance c t ≤ k.finish - 1 ∧ k.blended blend c e ta t ≤ k.finish - 1) ∧
     (c.finish ≠ none → k.distance c t = k.finish ∧ k.blended blend c e ta t = k.finish) ∧
     (k.speed c t).natAbs ≤ 32767 ∧ (k.halted c t = true → k.speed c t = 0)) ∧
   (∀ (s : State) (st : Station) (tag : Byte) (c : CarRecord) (ta : Time),
     (s.newResidual st tag c ta).natAbs ≤ s.store.snap))

/-! ## The Proximity Monitor -/

/-- The track gap is the shorter way around: it lies above minus half the course and up to half of it, leads from the
own position to the peer's modulo the course, and is opposite for the two stations except at exactly half a course
(R141). -/
def Obligations.TrackGapIsTheShorterWay : Prop :=
  ∀ length own peer : Nat, 0 < length →
    -(length : Int) < 2 * trackGap length own peer ∧ 2 * trackGap length own peer ≤ length ∧
    ((own : Int) + trackGap length own peer - peer) % length = 0 ∧
    (2 * trackGap length own peer ≠ length → trackGap length peer own = -trackGap length own peer) ∧
    (2 * trackGap length own peer = length → trackGap length peer own = trackGap length own peer)

/-- PROX ON sets the enable flag and, in RACING with the flag clear, starts the timer at one gap; PROX OFF clears it
and stops the timer. States, closing speeds and the sweep position are held (R138, R139). -/
def Obligations.ProxOnAndOff : Prop :=
  ∀ s : State,
    (s.hears .proxOn → exec .proxOn s = .next ((s.setProx { s.prox with
      enabled := true
      timer := if s.prox.enabled = false ∧ s.session.phase = .racing then some s.store.sweepGap
        else s.prox.timer }).answering .ok [])) ∧
    (s.hears .proxOff →
      exec .proxOff s = .next ((s.setProx { s.prox with enabled := false, timer := none }).answering .ok []))

/-- A sweep step passes the ineligible stations from the sweep position on, clearing each and keeping its closing
speed, and evaluates the first eligible one: it is moved by R145 to R147, its closing speed is stored at an entry to
CONTACT, and the sweep position becomes the station after it; every other station stays. CONTACT latches with the peer
as detail at its entry to CONTACT; DRAFT_CHANGE latches for every station passed in DRAFT and for the peer's entry to
or leaving of DRAFT, the last of them as detail. With nobody eligible every state is cleared and the sweep position
stays (R135, R136, R137, R140, R142, R148). A station is eligible by R137; the gap, the lateral difference and the
clamped closing speed are measured on the two cars as presented at C, the own car from the live copy (R140, R141,
R142). -/
def Obligations.SweepStepEvaluatesOnePeer : Prop :=
  (∀ (s : State) (st : Station),
     let own := s.presentOwn s.motion.live s.now
     let peer := s.presentPeer st s.now
     (s.eligible st = true ↔ st ≠ s.own ∧ (∃ r, s.standings.at st = some r ∧ r.status = .running) ∧
       ∃ c, (s.table.at st).car = some (s.session.tag, c)) ∧
     s.measure st =
       { gap := trackGap s.courseLength (own.distance % s.courseLength) (peer.distance % s.courseLength)
         across := peer.lateral.toInt - own.lateral.toInt
         closing := max (-32767) (min 32767 (own.speed - peer.speed)) }) ∧
  (∀ (s : State) (n : Fin 16), s.inReset = false → s.sweepRuns = true → s.prox.timer = some 0 →
     s.eligible (s.prox.position + n) = true → (∀ m : Fin 16, m < n → s.eligible (s.prox.position + m) = false) →
     ∃ t, exec .sweepStep s = .next t ∧
       let peer := s.prox.position + n
       let after := s.judgeProx (s.measure peer) (s.prox.at peer).state
       t.prox.at peer = { state := after, closing :=
         if (s.prox.at peer).state ≠ .contact ∧ after = .contact then (s.measure peer).closing
         else (s.prox.at peer).closing } ∧
       (∀ m : Fin 16, m < n → t.prox.at (s.prox.position + m) =
         { state := .clear, closing := (s.prox.at (s.prox.position + m)).closing }) ∧
       (∀ m : Fin 16, n < m → t.prox.at (s.prox.position + m) = s.prox.at (s.prox.position + m)) ∧
       t.prox.position = peer + 1 ∧ t.prox.timer = some s.store.sweepGap ∧ t.prox.enabled = s.prox.enabled ∧
       let touches := (s.prox.at peer).state ≠ .contact ∧ after = .contact
       let drafts := ¬ ((s.prox.at peer).state = .draft ↔ after = .draft)
       let passed := fun m : Fin 16 => m < n ∧ (s.prox.at (s.prox.position + m)).state = .draft
       (t.port.latched .contact = true ↔ s.port.latched .contact = true ∨ touches) ∧
       (t.port.latched .draftChange = true ↔ s.port.latched .draftChange = true ∨ drafts ∨ ∃ m, passed m) ∧
       (∀ e : Event, e ≠ .contact → e ≠ .draftChange → t.port.latched e = s.port.latched e) ∧
       (touches → t.port.details[5] = peer) ∧ (¬ touches → t.port.details[5] = s.port.details[5]) ∧
       (drafts → t.port.details[6] = peer) ∧
       (∀ m, ¬ drafts → passed m → (∀ m', m < m' → ¬ passed m') → t.port.details[6] = s.prox.position + m) ∧
       (¬ drafts → (∀ m, ¬ passed m) → t.port.details[6] = s.port.details[6]) ∧
       (∀ i : Fin 9, i ≠ 5 → i ≠ 6 → t.port.details[i] = s.port.details[i]) ∧
       t.port.mask = s.port.mask ∧ t.port.state = s.port.state ∧ t.port.response = s.port.response ∧
       t.pending = s.pending ∧ t.store = s.store ∧ t.bus = s.bus ∧ t.link = s.link ∧ t.clock = s.clock ∧
       t.table = s.table ∧ t.session = s.session ∧ t.motion = s.motion ∧ t.standings = s.standings ∧
       t.patterns = s.patterns) ∧
  (∀ s : State, s.inReset = false → s.sweepRuns = true → s.prox.timer = some 0 → (∀ st, s.eligible st = false) →
     ∃ t, exec .sweepStep s = .next t ∧ t.prox.position = s.prox.position ∧
       (∀ st, t.prox.at st = { state := .clear, closing := (s.prox.at st).closing }) ∧
       (t.port.latched .draftChange = true ↔
         s.port.latched .draftChange = true ∨ ∃ st, (s.prox.at st).state = .draft) ∧
       (∀ e : Event, e ≠ .draftChange → t.port.latched e = s.port.latched e) ∧
       (∀ m : Fin 16, (s.prox.at (s.prox.position + m)).state = .draft →
         (∀ m', m < m' → (s.prox.at (s.prox.position + m')).state ≠ .draft) →
         t.port.details[6] = s.prox.position + m) ∧
       (∀ i : Fin 9, (i ≠ 6 ∨ ∀ st, (s.prox.at st).state ≠ .draft) → t.port.details[i] = s.port.details[i]) ∧
       t.prox.timer = some s.store.sweepGap ∧ t.prox.enabled = s.prox.enabled ∧
       t.port.mask = s.port.mask ∧ t.port.state = s.port.state ∧ t.port.response = s.port.response ∧
       t = (s.setProx t.prox).setPort t.port)

/-- A peer's state moves as the table of R145 to R147 gives it: CONTACT first at its entry window, each state held by
its release window, DRAFT only ahead, and neither entered when the held rule does not permit it (R143 to R147). -/
def Obligations.ProximityTransitions : Prop :=
  ∀ (s : State) (m : Measure),
    let contactEntry := contactOn s.heldOptions = true ∧ (m.gap.natAbs : Int) ≤ s.store.contactLength ∧
      (m.across.natAbs : Int) ≤ s.store.contactWidth
    let contactHeld := (m.gap.natAbs : Int) ≤ s.store.contactLength + 100 ∧
      (m.across.natAbs : Int) ≤ s.store.contactWidth + 5
    let draftEntry := draftOn s.heldOptions = true ∧ 0 < m.gap ∧ m.gap ≤ s.store.draftLength ∧
      (m.across.natAbs : Int) ≤ s.store.draftWidth
    let draftHeld := 0 < m.gap ∧ m.gap ≤ s.store.draftLength + 100 ∧ (m.across.natAbs : Int) ≤ s.store.draftWidth + 5
    (s.judgeProx m .clear = .contact ↔ contactEntry) ∧
    (s.judgeProx m .clear = .draft ↔ ¬ contactEntry ∧ draftEntry) ∧
    (s.judgeProx m .contact = .contact ↔ contactHeld) ∧
    (s.judgeProx m .contact = .draft ↔ ¬ contactHeld ∧ draftEntry) ∧
    (s.judgeProx m .draft = .contact ↔ contactEntry) ∧
    (s.judgeProx m .draft = .draft ↔ ¬ contactEntry ∧ draftHeld)

/-! ## The Readout Formatter -/

/-- READ LINE in RACING, FINISHED or RESULTS at a place of the list and a loaded pattern answers its marks, a length of
at most 24 and that many characters, never both marks, and changes nothing; an unloaded pattern or a place above n is
refused with OPERAND, and outside those phases with PHASE (R185, R186). The fields have the digits of R174 and the sign
of R176; a pattern runs from the starting values of R177; the pointer passes on and jumps by R178 and R184; and every
other step acts by R179 to R183, a character added to the line, or TRUNC set, by R185. -/
def Obligations.ReadLineAnswersALine : Prop :=
  (∀ (place pattern : Byte) (s : State), s.hears (.readLine place pattern) → 1 ≤ place.toNat → place.toNat ≤ 16 →
     pattern.toNat ≤ 7 →
    (s.session.phase.hasStandings = false → exec (.readLine place pattern) s = .next (s.answering .phase [])) ∧
    (s.session.phase.hasStandings = true →
      (s.pattern pattern.toNat = none ∨ s.standingsList.length < place.toNat) →
      exec (.readLine place pattern) s = .next (s.answering .operand [])) ∧
    (∀ steps entry, s.session.phase.hasStandings = true → s.pattern pattern.toNat = some steps →
      s.standingsList[place.toNat - 1]? = some entry →
      let x := runPattern entry steps
      x.line.length ≤ 24 ∧ (x.short && x.trunc) = false ∧
        exec (.readLine place pattern) s = .next (s.answering .ok
          ([(if x.short then 1#8 else 0#8) ||| (if x.trunc then 4#8 else 0#8), BitVec.ofNat 8 x.line.length] ++
            x.line)))) ∧
  (∀ x : Standing,
    let seven := fun v : Nat => [v / 1000000 % 10, v / 100000 % 10, v / 10000 % 10, v / 1000 % 10, v / 100 % 10,
      v / 10 % 10, v % 10]
    x.digits .place = some [x.place / 10 % 10, x.place % 10] ∧
    x.digits .station = some [x.station.val / 10 % 10, x.station.val % 10] ∧
    x.digits .lap = some [x.lap / 10 % 10, x.lap % 10] ∧
    x.digits .elapsed = x.elapsed.map timeDigits ∧ x.digits .gapT = x.gapT.map timeDigits ∧
    x.digits .gapD = x.gapD.map seven ∧ x.digits .delta = x.delta.map (fun d => seven d.natAbs) ∧
    ∀ f, x.negative f = true ↔ f = .delta ∧ ∃ d, x.delta = some d ∧ d < 0) ∧
  (∀ (entry : Standing) (steps : List Machine.Step), runPattern entry steps = Fmt.runFrom entry steps 0
    { fill := 0x20#8, float := none, significant := false, negative := false, absent := true, source := [],
      cursor := 0, line := [], short := false, trunc := false, done := false }) ∧
  (∀ (entry : Standing) (x : Fmt) (p : Machine.Step) (rest : List Machine.Step) (n : Nat),
    Fmt.runFrom entry [] n x = x ∧ Fmt.runFrom entry (p :: rest) (n + 1) x = Fmt.runFrom entry rest n x ∧
    (x.done = true → Fmt.runFrom entry (p :: rest) 0 x = x) ∧
    (x.done = false →
      Fmt.runFrom entry (.jz n :: rest) 0 x =
        Fmt.runFrom entry rest (if x.absent = false ∧ ∀ d ∈ x.source, d = 0 then n else 0) x ∧
      Fmt.runFrom entry (.ja n :: rest) 0 x = Fmt.runFrom entry rest (if x.absent then n else 0) x ∧
      ((∀ m, p ≠ .jz m) → (∀ m, p ≠ .ja m) →
        Fmt.runFrom entry (p :: rest) 0 x = Fmt.runFrom entry rest 0 (x.step entry p)))) ∧
  (∀ (entry : Standing) (x : Fmt) (n : Nat) (c : Byte) (f : Field),
    let out := fun (y : Fmt) (ch : Byte) =>
      if y.done then y
      else if 24 ≤ y.line.length then { y with trunc := true, done := true }
      else { y with line := y.line ++ [ch] }
    let turnOn := fun y : Fmt =>
      match y.float with
      | some ch => out { y with significant := true } ch
      | none => { y with significant := true }
    let take := fun (use : Fmt → Nat → Fmt) =>
      match x.source[x.cursor]? with
      | some d => use { x with cursor := x.cursor + 1 } d
      | none => { x with short := true, done := true }
    let char := fun d : Nat => BitVec.ofNat 8 (0x30 + d)
    (x.done = false →
      x.step entry (.sel f) = { x with
        source := (entry.digits f).getD [], cursor := 0, negative := entry.negative f
        absent := (entry.digits f).isNone, significant := false } ∧
      x.step entry (.zs 0) = x ∧ x.step entry (.sk 0) = x ∧
      x.step entry (.cp 0) = (if x.significant then x else turnOn x) ∧
      x.step entry (.zs (n + 1)) = take (fun y d =>
        (if y.significant then out y (char d) else if d ≠ 0 then out (turnOn y) (char d) else out y y.fill).step entry
          (.zs n)) ∧
      x.step entry (.sk (n + 1)) = take (fun y _ => y.step entry (.sk n)) ∧
      (x.significant = true → x.step entry (.cp (n + 1)) = take (fun y d => (out y (char d)).step entry (.cp n))) ∧
      (x.significant = false → x.step entry (.cp (n + 1)) = (turnOn x).step entry (.cp (n + 1))) ∧
      x.step entry (.lit c) = out x c ∧ x.step entry (.lits c) = out x (if x.significant then c else x.fill) ∧
      x.step entry (.minus c) = out x (if x.negative then c else x.fill) ∧
      x.step entry (.plus c) = out x (if x.negative then x.fill else c) ∧
      x.step entry (.fill c) = { x with fill := c } ∧ x.step entry (.float c) = { x with float := some c } ∧
      x.step entry .fsign = { x with float := some (if x.negative then 0x2D#8 else 0x2B#8) } ∧
      x.step entry .sig = { x with significant := true } ∧ x.step entry .stop = { x with done := true }) ∧
    (x.done = true →
      x.step entry (.zs n) = x ∧ x.step entry (.sk n) = x ∧ (x.significant = true → x.step entry (.cp n) = x)))

/-- A time field turns its value in ms into MMSSmmm; for every elapsed time and GAPT the minutes are at most 35 (R175).
-/
def Obligations.TimeDigitsAreMMSSmmm : Prop :=
  (∀ v : Nat, v < 6000000 → timeDigits v =
    [v / 60000 / 10, v / 60000 % 10, v % 60000 / 1000 / 10, v % 60000 / 1000 % 10, v % 1000 / 100, v % 1000 / 10 % 10,
      v % 1000 % 10]) ∧
  (∀ (s : State) (x y : Ranked) (t : Time) (v : Nat), s.elapsedOf x t = some v ∨ gapTOf y x = some v →
    v / 60000 ≤ 35) ∧
  timeDigits 83456 = [0, 1, 2, 3, 4, 5, 6] ∧ timeDigits 0 = [0, 0, 0, 0, 0, 0, 0]

/-! ## The race bus -/

/-- At a period expiry the timer starts its next P, one frame is assembled from the state at the expiry, and it is
placed by the transmitter's state: pending in SENDING, else current with attempt count 1, waiting while the line is
busy and drawing its deferral at once on an idle line (R5, R6, R8, R9, R10, R11). -/
def Obligations.PeriodExpiryPlacesAFrame : Prop :=
  ∀ (s : State) (b : Body), s.inReset = false → s.bus.period = some 0 →
    ((∃ phase : BeaconPhase, ((s.session.phase = .lobby ∧ phase = .lobby) ∨
          (s.session.phase = .proposing ∧ phase = .proposing) ∨ (s.session.phase = .armed ∧ phase = .armed)) ∧
        b = .beacon
          { phase := phase, ready := s.session.ready, abort := s.session.abortHold.isSome,
            offer := s.session.effective,
            roster := if phase = .lobby then s.session.lobbySet else s.session.roster.getD 0,
            rule := match s.session.rule with
              | none => { isNone := true, course := 0, lapCode := 0, options := 0 }
              | some r => { isNone := false, course := r.course, lapCode := r.lapCode, options := r.options },
            proposal := s.session.proposalOf s.own, agreed := s.session.agreed }) ∨
      (s.session.phase.hasStandings = true ∧ ∃ c, s.motion.live = some c ∧ b = .car c)) →
    ∃ t, exec .framePeriodExpiry s = .next t ∧
      (s.bus.line = .busy ∨ (∃ current n stamp closing old, s.bus.tx = .sending current n stamp closing old) →
        t = s.setBus { s.bus with
          period := some s.store.period
          tx := match s.bus.tx with
            | .sending current n stamp closing _ => .sending current n stamp closing
                (some { sender := s.own, tag := s.session.tag, body := b })
            | _ => .waitIdle { sender := s.own, tag := s.session.tag, body := b } 1 }) ∧
      (s.bus.line = .idle → (∀ current n stamp closing old, s.bus.tx ≠ .sending current n stamp closing old) →
        t = (s.setBus { s.bus with period := some s.store.period }).drawDeferral
          { sender := s.own, tag := s.session.tag, body := b } 1)

/-- With the line idle the transmitter draws a deferral over the range of the attempt, 16, 32 or 64 slots, the draw
itself being free (assumption 2); the line going idle draws it for a frame that waits, once the run is judged; a
counted slot lowers the count by 1; at 0, drawn or counted, the transmitter begins to send (R11). -/
def Obligations.DeferralIsDrawnAndCounted : Prop :=
  (∀ (s : State) (f : Frame) (n : Nat), 1 ≤ n → n ≤ 3 →
     ∃ d, d < 16 * 2 ^ (n - 1) ∧
       s.drawDeferral f n = (s.setChoices (s.choices + 1)).setBus
         (if d = 0 then { s.bus with tx := .sending f n none false none, line := .busy, run := .opening }
           else { s.bus with tx := .defer f n d })) ∧
  (∀ (s : State) (f : Frame) (n : Nat) (run : List RxByte), s.inReset = false → s.bus.line = .busy →
     s.bus.run ≠ .opening → s.bus.tx = .waitIdle f n →
     exec (.lineIdle run) s = .next (((s.endRun run).setBus { (s.endRun run).bus with
       line := .idle, run := .closed }).drawDeferral f n) ∧
     (s.endRun run).bus = { s.bus with badFrames := (s.endRun run).bus.badFrames }) ∧
  (∀ (s : State) (f : Frame) (n d : Nat), s.inReset = false → s.bus.line = .idle → s.bus.tx = .defer f n (d + 1) →
     exec .deferralSlot s = .next (s.setBus
       (if d = 0 then { s.bus with tx := .sending f n none false none, line := .busy, run := .opening }
         else { s.bus with tx := .defer f n d })))

/-- A start bit on the idle line makes it busy and opens a run, and suspends a deferral where it stands; the start mark
captures C, sets the echo mark by whether the own transmitter is in SENDING, and stamps the frame on the line (R2, R3,
R11, R12, R17). -/
def Obligations.ActivityAndStartMark : Prop :=
  (∀ s : State, s.inReset = false → s.bus.line = .idle →
    exec .lineActivity s = .next (s.setBus { s.bus with line := .busy, run := .opening })) ∧
  (∀ s : State, s.inReset = false → s.bus.run = .opening → (∀ f n st c p, s.bus.tx ≠ .sending f n st c p) →
    exec .startMark s = .next (s.setBus { s.bus with run := .collecting s.now false })) ∧
  (∀ (s : State) (f : Frame) (n : Nat) (closing : Bool) (pending : Option Frame), s.inReset = false →
    s.bus.run = .opening → s.bus.tx = .sending f n none closing pending →
    exec .startMark s = .next (s.setBus
      { s.bus with run := .collecting s.now true, tx := .sending f n (some s.now) closing pending }))

/-- A collision is counted; then a closing frame ends, a pending frame becomes current, a frame collided less than
three times waits for a retry, and one collided a third time is dropped, counted, and latches FRAME_DROPPED; a matching
echo of the second CRC byte ends the attempt, and pending becomes current or the transmitter is IDLE (R12, R13, R14,
R15). A collision on the sync byte goes the same way before the frame has a stamp, and leaves the run collecting with
the echo mark set, its capture being C: the echo of the sync byte ends at the start mark, which is the model's reading
(assumption 8), as is that a closing frame ends IDLE with a frame in pending (assumption 19). -/
def Obligations.AttemptsEndInCollisionOrSuccess : Prop :=
  (∀ (s : State) (f : Frame) (n index : Nat) (c : Time) (stamp : Time) (closing echoMark : Bool)
     (pending : Option Frame) (sent : Byte) (echo : RxByte),
     s.inReset = false → s.bus.line = .busy → s.bus.run = .collecting c echoMark →
     s.bus.tx = .sending f n (some stamp) closing pending → (f.bytes stamp)[index]? = some sent →
     (echo.framingError = true ∨ echo.value ≠ sent) →
     ∃ t, exec (.collision index echo) s = .next t ∧
       t.bus = { s.bus with
         collisions := if s.bus.collisions = 65535#16 then s.bus.collisions else s.bus.collisions + 1#16
         dropped := if closing = false ∧ pending = none ∧ 3 ≤ n ∧ s.bus.dropped ≠ 65535#16 then s.bus.dropped + 1#16
           else s.bus.dropped
         tx := if closing then .idle else match pending with
           | some p => .waitIdle p 1
           | none => if n < 3 then .waitIdle f (n + 1) else .idle } ∧
       (∀ e : Event, t.port.latched e = (s.port.latched e ||
         (decide (e = .frameDropped) && decide (closing = false ∧ pending = none ∧ 3 ≤ n)))) ∧
       t = (s.setBus t.bus).setPort t.port) ∧
  (∀ (s : State) (f : Frame) (n : Nat) (closing : Bool) (pending : Option Frame) (echo : RxByte),
     s.inReset = false → s.bus.line = .busy → s.bus.run = .opening → s.bus.tx = .sending f n none closing pending →
     (echo.framingError = true ∨ echo.value ≠ 0x5D#8) →
     ∃ t, exec (.collision 0 echo) s = .next t ∧
       t.bus = { s.bus with
         run := .collecting s.now true
         collisions := if s.bus.collisions = 65535#16 then s.bus.collisions else s.bus.collisions + 1#16
         dropped := if closing = false ∧ pending = none ∧ 3 ≤ n ∧ s.bus.dropped ≠ 65535#16 then s.bus.dropped + 1#16
           else s.bus.dropped
         tx := if closing then .idle else match pending with
           | some p => .waitIdle p 1
           | none => if n < 3 then .waitIdle f (n + 1) else .idle } ∧
       (∀ e : Event, t.port.latched e = (s.port.latched e ||
         (decide (e = .frameDropped) && decide (closing = false ∧ pending = none ∧ 3 ≤ n)))) ∧
       t = (s.setBus t.bus).setPort t.port) ∧
  (∀ (s : State) (f : Frame) (n : Nat) (stamp : Time) (closing : Bool) (pending : Option Frame) (echo : RxByte),
     s.inReset = false → s.bus.line = .busy → s.bus.tx = .sending f n (some stamp) closing pending →
     echo.framingError = false → (f.bytes stamp).getLast? = some echo.value →
     exec (.txSuccess echo) s = .next (s.setBus { s.bus with
       tx := if closing then .idle else match pending with
         | some p => .waitIdle p 1
         | none => .idle }))

/-- When the line goes idle the run is judged: an own echo is not judged, a bad frame is counted and discarded, a frame
under the own number latches STATION_CLASH and is discarded (R17, R18, R19); a frame in WAIT_IDLE then draws its
deferral (R11). That the event carries the bytes of the run is the model's choice (assumption 8). -/
def Obligations.LineIdleJudgesTheRun : Prop :=
  ∀ (s : State) (run : List RxByte) (c : Time), s.inReset = false → s.bus.line = .busy →
    (∀ f n stamp closing next, s.bus.tx ≠ .sending f n stamp closing next) →
    let contending := fun t : State => match s.bus.tx with
      | .waitIdle f n => t.drawDeferral f n
      | _ => t
    (s.bus.run = .closed ∨ s.bus.run = .collecting c true →
      exec (.lineIdle run) s = .next (contending (s.setBus { s.bus with line := .idle, run := .closed }))) ∧
    (s.bus.run = .collecting c false → judgeRun run = none →
      exec (.lineIdle run) s = .next (contending (s.setBus { s.bus with
        line := .idle, run := .closed
        badFrames := if s.bus.badFrames = 65535#16 then s.bus.badFrames else s.bus.badFrames + 1#16 }))) ∧
    (∀ f stamp, s.bus.run = .collecting c false → judgeRun run = some (f, stamp) → f.sender = s.own →
      ∃ t, exec (.lineIdle run) s = .next (contending t) ∧
        t = (s.setBus { s.bus with line := .idle, run := .closed }).setPort t.port ∧
        t.port.latched .stationClash = true ∧ t.port.details[4] = s.own ∧
        (∀ e : Event, e ≠ .stationClash → t.port.latched e = s.port.latched e))

/-- A valid frame of a peer is counted with its offset sample and queued, and applied at once unless the table is
frozen: the sender's entry then holds what the frame carried (R20, R23, R25, R57, R60, R61, R62). While it is frozen
the frame joins or merges into the queue with the queue's own counters and events, and nothing of it is applied (R57,
R58, R59, R65). A frame of the own in WAIT_IDLE then draws its deferral (R11). That the event carries the bytes of the
run is the model's choice (assumption 8). -/
def Obligations.ReceivedFramesReachTheTable : Prop :=
  ∀ (s : State) (run : List RxByte) (c stamp : Time) (f : Frame), s.inReset = false → s.bus.line = .busy →
    (∀ g n st closing next, s.bus.tx ≠ .sending g n st closing next) → s.bus.run = .collecting c false →
    judgeRun run = some (f, stamp) → f.sender ≠ s.own → s.table.QueueOk →
    ∃ t, exec (.lineIdle run) s = .next (match s.bus.tx with
        | .waitIdle g n => t.drawDeferral g n
        | _ => t) ∧
      (s.table.freeze = none → t = ((s.countReception f.sender stamp c).applyFrame f s.now).setBus
        { s.bus with line := .idle, run := .closed }) ∧
      t.bus = { s.bus with line := .idle, run := .closed } ∧
      t.link.at f.sender = { s.link.at f.sender with
        count := if (s.link.at f.sender).count = 255#8 then 255#8 else (s.link.at f.sender).count + 1#8
        presence := if (s.link.at f.sender).presence = .absent then .acquiring else (s.link.at f.sender).presence
        sample := some (stamp - c - BitVec.ofNat 32 s.store.linkDelay) } ∧
      (∀ st, st ≠ f.sender → t.link.at st = s.link.at st) ∧ t.link.window = s.link.window ∧
      (s.table.freeze = none → t.table.queue = [] ∧ t.table.freeze = none ∧
        (∀ st, st ≠ f.sender → t.table.at st = s.table.at st) ∧
        (∀ b, f.body = .beacon b → (t.table.at f.sender).beacon = some (f.tag, b) ∧
          (t.table.at f.sender).lastKind = .beacon ∧
          (t.table.at f.sender).car = match (s.table.at f.sender).car with
            | some (tag, x) => if tag = f.tag then some (tag, x) else none
            | none => none) ∧
        (∀ x, f.body = .car x → t.table.at f.sender =
          { beacon := (s.table.at f.sender).beacon, car := some (f.tag, x), lastKind := .car, blendStart := s.now,
            residual := (s.setLink t.link).newResidual f.sender f.tag x s.now })) ∧
      (s.table.freeze ≠ none →
        t = ((s.countReception f.sender stamp c).enqueue f).setBus { s.bus with line := .idle, run := .closed } ∧
        t.table = (s.enqueue f).table ∧ t.port = (s.enqueue f).port ∧ t.session = s.session ∧
        t.standings = s.standings ∧ t.motion = s.motion ∧ t.prox = s.prox) ∧
      t.pending = s.pending ∧ t.choices = s.choices ∧ t.inReset = false ∧ t.straps = s.straps ∧ t.store = s.store ∧
      t.clock = s.clock ∧ t.patterns = s.patterns ∧ t.port.mask = s.port.mask ∧ t.port.state = s.port.state

/-! ## The Link Monitor and the Race Clock -/

/-- At a window expiry every sender moves by the presence rule of its state and its count, is tested for chatter, and
starts the next window with count 0 and no sample (R22, R26 to R32). PEER_UP, PEER_LOST, PEER_BACK and CHATTER latch
when some sender meets their rule, with the highest-numbered such sender as detail (R26, R27, R29, R30, R32); the Peer
Table entry of a sender moved from LOST to ABSENT is emptied, and no other entry changes (R31, R63). The phase read is
that at the expiry, and the place of the DNF check is free (assumptions 4 and 12). A sender that becomes live, ceases
to be live or goes from LOST to ABSENT, and a change of the clock state, each start a re-evaluation: the lobby set
stands as R81 gives it at the end; outside RACING and FINISHED, where there is none of them the session, the own
record, the standings and the proximity states stay; where there is exactly one, they are what one re-evaluation, from
a state that differs by that cause alone, makes of them, if that does not start the race (R34, R42, R82). In ARMED, and
in PROPOSING with a proposal still to come, with Condition B holding before, the lowest-numbered other roster member
that falls LOST aborts the countdown with cause MEMBER and its number, with none such a clock no longer LOCKED aborts
it with cause CLOCK, and with neither the countdown goes on (R96, R99). In LOBBY with the player not ready or an abort
held, the rule and the cleardown mark are resolved afresh and nothing else of the session moves (R83, R85, R86). -/
def Obligations.WindowExpiryJudgesEverySender : Prop :=
  (∀ s : State, s.inReset = false → s.link.window = 0 →
     ∃ t, exec .windowExpiry s = .next t ∧ t.link.window = s.store.window * s.store.period ∧
       (∀ st, let x := s.link.at st
         let y := t.link.at st
         y.count = 0 ∧ y.sample = none ∧ y.chatter = (x.chatter || decide (s.store.window + 2 < x.count.toNat)) ∧
         (x.presence = .absent → y.presence = .absent) ∧
         (x.presence = .acquiring → y.presence =
           if s.store.on ≤ x.count.toNat then .present else if x.count = 0 then .absent else .acquiring) ∧
         (x.presence = .present →
           if x.count.toNat < s.store.off then y.presence = .fading ∧ y.fade = 1
           else y.presence = .present ∧ y.fade = x.fade) ∧
         (x.presence = .fading →
           if s.store.on ≤ x.count.toNat then y.presence = .present ∧ y.fade = 0
           else if s.store.off ≤ x.count.toNat then y.presence = .fading ∧ y.fade = x.fade
           else if min (x.fade + 1) s.store.dropout = s.store.dropout then
             y.presence = .lost ∧ y.fade = 0 ∧ y.expiry = 0 ∧ y.lostAt = some s.now
           else y.presence = .fading ∧ y.fade = x.fade + 1) ∧
         (x.presence = .lost →
           if s.store.on ≤ x.count.toNat then y.presence = .present ∧ y.expiry = 0 ∧ y.lostAt = none
           else if s.session.phase.outsideRace then
             (if 32 ≤ x.expiry + 1 then y.presence = .absent ∧ y.expiry = 0 ∧ y.lostAt = none
               else y.presence = .lost ∧ y.expiry = x.expiry + 1 ∧ y.lostAt = x.lostAt)
           else y.presence = .lost ∧ y.expiry = x.expiry ∧ y.lostAt = x.lostAt) ∧
         t.table.at st = if x.presence = .lost ∧ y.presence = .absent then Entry.empty else s.table.at st) ∧
       (let rise := fun st => (s.link.at st).presence = .acquiring ∧ s.store.on ≤ (s.link.at st).count.toNat
         let loss := fun st => (s.link.at st).presence = .fading ∧ (s.link.at st).count.toNat < s.store.on ∧
           (s.link.at st).count.toNat < s.store.off ∧
           min ((s.link.at st).fade + 1) s.store.dropout = s.store.dropout
         let back := fun st => (s.link.at st).presence = .lost ∧ s.store.on ≤ (s.link.at st).count.toNat
         let chatters := fun st => s.store.window + 2 < (s.link.at st).count.toNat
         ∀ (e : Event) (i : Fin 9) (meets : Station → Prop),
           ((e = .peerUp ∧ i = 0 ∧ meets = rise) ∨ (e = .peerLost ∧ i = 1 ∧ meets = loss) ∨
             (e = .peerBack ∧ i = 2 ∧ meets = back) ∨ (e = .chatter ∧ i = 3 ∧ meets = chatters)) →
           (t.port.latched e = true ↔ s.port.latched e = true ∨ ∃ st, meets st) ∧
           (∀ st, meets st → (∀ st', st < st' → ¬ meets st') → t.port.details[i] = st) ∧
           ((∀ st, ¬ meets st) → t.port.details[i] = s.port.details[i])) ∧
       t.clock.t = s.clock.t ∧ t.pending = s.pending ∧ t.choices = s.choices + 1 ∧ t.inReset = false ∧
       t.straps = s.straps ∧ t.store = s.store ∧ t.bus = s.bus ∧ t.patterns = s.patterns ∧
       t.table.queue = s.table.queue ∧ t.table.freeze = s.table.freeze ∧ t.port.mask = s.port.mask ∧
       t.port.state = s.port.state ∧ t.port.response = s.port.response ∧ s.port.latch &&& t.port.latch = s.port.latch) ∧
  (∀ s t : State, s.inReset = false → s.link.window = 0 → exec .windowExpiry s = .next t →
     let falls := fun st => (s.link.at st).presence = .fading ∧ (s.link.at st).count.toNat < s.store.on ∧
       (s.link.at st).count.toNat < s.store.off ∧
       min ((s.link.at st).fade + 1) s.store.dropout = s.store.dropout
     let moves := fun st => falls st ∨
       (((s.link.at st).presence = .acquiring ∨ (s.link.at st).presence = .lost) ∧
         s.store.on ≤ (s.link.at st).count.toNat) ∨
       ((s.link.at st).presence = .lost ∧ (s.link.at st).count.toNat < s.store.on ∧
         s.session.phase.outsideRace = true ∧ 32 ≤ (s.link.at st).expiry + 1)
     let steered := t.clock.state ≠ s.clock.state
     let same := t.session = s.session ∧ t.motion = s.motion ∧ t.standings = s.standings ∧ t.prox = s.prox
     let regathered := t.session = { s.session with lobbySet := t.session.lobbySet } ∧ t.motion = s.motion ∧
       t.port.latched .aborted = s.port.latched .aborted
     let resolved := t.session.rule = ruleOf t.commonOffer ∧
       (t.session.cleardownMark = true ↔ t.session.rule = none ∧ 2 ≤ (members t.session.lobbySet).length)
     let aborted := fun (cause : AbortCause) (who : Option Station) =>
       t.session = { s.session with
         phase := .lobby, roster := none, proposals := t.session.proposals, agreed := none, tag := 0, held := false,
         abortHold := some 250000, lastAbort := some (cause, who), lobbySet := t.session.lobbySet,
         rule := t.session.rule, cleardownMark := t.session.cleardownMark } ∧
       (∀ x, t.session.proposalOf x = none) ∧ t.motion = { live := none, frozen := none } ∧
       t.port.latched .aborted = true ∧ resolved
     ((∃ st, moves st) ∨ steered → ∀ x, member t.session.lobbySet x = t.gathers x) ∧
     (s.session.phase.inRace = false → (∀ st, ¬ moves st) → ¬ steered → same) ∧
     (s.session.phase.inRace = false →
       ((∃ st, moves st ∧ ∀ x, moves x → x = st) ∧ ¬ steered) ∨ ((∀ st, ¬ moves st) ∧ steered) →
       ∃ r : State, r.session = s.session ∧ r.motion = s.motion ∧ r.standings = s.standings ∧ r.prox = s.prox ∧
         r.store = s.store ∧ r.straps = s.straps ∧ r.table = t.table ∧
         r.clock = { s.clock with state := t.clock.state } ∧ (∀ st, r.live st = t.live st) ∧
         (r.reevaluate.session.phase.inRace = false → t.session = r.reevaluate.session ∧
           t.motion = r.reevaluate.motion ∧ t.standings = r.reevaluate.standings ∧ t.prox = r.reevaluate.prox)) ∧
     (∀ roster, s.session.roster = some roster → s.breach = none →
       s.session.phase = .armed ∨
         (s.session.phase = .proposing ∧ ∃ st, member roster st = true ∧ s.session.proposalOf st = none) →
       let out := fun st => member roster st = true ∧ st ≠ s.own ∧ falls st
       (∀ st, out st → (∀ x, out x → st ≤ x) → aborted .member (some st)) ∧
       ((∀ st, ¬ out st) → steered → aborted .clock none) ∧
       ((∀ st, ¬ out st) → ¬ steered → regathered)) ∧
     (s.session.phase = .lobby → s.session.ready = false ∨ s.session.abortHold ≠ none →
       t.session = { s.session with
         lobbySet := t.session.lobbySet, rule := t.session.rule, cleardownMark := t.session.cleardownMark } ∧
       t.motion = s.motion ∧ t.port.latched .aborted = s.port.latched .aborted ∧
       (t.session.rule ≠ s.session.rule → t.port.latched .ruleChange = true) ∧
       (t.session.cleardownMark = true → s.session.cleardownMark = false → t.port.latched .cleardown = true) ∧
       ((∃ st, moves st) ∨ steered → resolved)))

/-- The target is the mean of the samples and the own 0, rounded toward zero, of four values or more without one
largest and one smallest; it does not depend on the order of the samples, and lies between the smallest and the largest
of them and the own 0 (R44, R45). A window expiry steers by the samples of the senders that are live and not chattering
after its judgement (R26, R43, R44). The evaluation does nothing in OFFLINE; FREE with k and the debt as they were on
an empty sample set; else LOCKED or DRIFTING by the lock bound, the target whole in LOBBY, and in limited measure in
the later phases (R43, R44, R46, R47, R48). That an expiry steers by the phase that stood before its judgement is the
model's reading (assumption 12). -/
def Obligations.SteeringMovesTheClock : Prop :=
  (∀ xs : List Int,
     (xs.length ≤ 2 → steeringTarget xs = Int.tdiv (0 :: xs).sum (0 :: xs).length) ∧
     ∀ (hi lo : Int) (kept : List Int), 3 ≤ xs.length → (0 :: xs).Perm (hi :: lo :: kept) →
       (∀ x ∈ 0 :: xs, lo ≤ x ∧ x ≤ hi) → steeringTarget xs = Int.tdiv kept.sum kept.length) ∧
  (∀ s : State, s.inReset = false → s.link.window = 0 → ∃ t, exec .windowExpiry s = .next t ∧
     t.clock = (s.steer s.session.phase (stations.filterMap fun st =>
       if ((t.link.at st).presence = .present ∨ (t.link.at st).presence = .fading) ∧ (t.link.at st).chatter = false
       then (s.link.at st).sample.map BitVec.toInt else none)).clock) ∧
  (∀ xs ys : List Int, xs.Perm ys → steeringTarget xs = steeringTarget ys ∧
     ∀ lo hi : Int, lo ≤ 0 → 0 ≤ hi → (∀ x ∈ xs, lo ≤ x ∧ x ≤ hi) → lo ≤ steeringTarget xs ∧ steeringTarget xs ≤ hi) ∧
  (∀ (s : State) (phase : Phase) (samples : List Int),
     (phase = .offline → s.steer phase samples = s) ∧
     (phase ≠ .offline → samples = [] → (s.steer phase samples).clock = { s.clock with state := .free }) ∧
     (phase ≠ .offline → samples ≠ [] →
       let target := steeringTarget samples
       (s.steer phase samples).clock =
         { t := s.clock.t
           k := if phase = .lobby then s.clock.k + BitVec.ofInt 32 target
             else if 0 < target then s.clock.k + BitVec.ofInt 32 (min target s.store.slew) else s.clock.k
           debt := if phase = .lobby ∨ 0 < target then 0 else min target.natAbs s.store.slew
           payment := 0
           state := if target.natAbs ≤ s.store.lockBound then .locked else .drifting }) ∧
     ((s.steer phase samples).port.latched .clockState =
       (s.port.latched .clockState || decide ((s.steer phase samples).clock.state ≠ s.clock.state))))

/-- The eighth microsecond of a group pays 1 µs of the debt: T advances, k is lowered by 1 at the same instant, and C
holds its value; so a debt of d µs is paid in 8 × d µs of T, over which k falls by d (R49). That the event is itself
the eighth microsecond is the model's choice (assumption 6). -/
def Obligations.DebtPaymentHoldsTheClock : Prop :=
  (∀ s : State, s.inReset = false → 0 < s.clock.debt → s.clock.payment = 7 →
     ∃ t, exec .debtPayment s = .next t ∧ t.now = s.now ∧
       t.clock = { s.clock with
         t := s.clock.t + 1, k := s.clock.k - 1, debt := s.clock.debt - 1, payment := 0 } ∧
       t.link = { s.link with window := s.link.window - 1 } ∧ t.bus.period = s.bus.period.map (· - 1) ∧
       t.session.abortHold = s.session.abortHold.map (· - 1) ∧ t.prox.timer = s.prox.timer.map (· - 1) ∧
       t.pending = s.pending ∧ t.store = s.store ∧ t.motion = s.motion ∧ t.standings = s.standings ∧
       t.port = s.port.tick ∧ t.table.entries = s.table.entries ∧ t.table.queue = s.table.queue) ∧
  (∀ c : Clock, c.payment = 0 →
     (fun x : Clock => if x.paymentDue then x.pay else x.advance)^[8 * c.debt] c =
       { t := c.t + BitVec.ofNat 32 (8 * c.debt), k := c.k - BitVec.ofNat 32 c.debt, debt := 0, payment := 0,
         state := c.state })

/-- Outside a steering step in LOBBY, LEAVE and the resets, C never decreases (R49). That the phase of a steering step
is the one that stood before its expiry is the model's reading (assumption 12). -/
def Obligations.TheRaceClockNeverStepsBack : Prop :=
  ∀ (i : Instr) (s t : State), s.store.InRange → exec i s = .next t → ¬ s.resetBy i → i ≠ .leave →
    ¬ (i = .windowExpiry ∧ s.session.phase = .lobby) → 0 ≤ tdiff t.now s.now ∧ tdiff t.now s.now ≤ 500

/-- CLEAR FAULTS clears the chatter flag of every sender and nothing else: not the CHATTER flag of the latch, not its
detail, no count, presence or sample (R33). -/
def Obligations.ClearFaultsClearsChatter : Prop :=
  ∀ s : State, s.hears .clearFaults → ∃ t, exec .clearFaults s = .next t ∧
    (∀ st, t.link.at st = { s.link.at st with chatter := false }) ∧ t.link.window = s.link.window ∧
    t = (s.setLink t.link).answering .ok []

/-! ## The Peer Table and the Receive Queue -/

/-- A frame merges into the entry of its sender in place, every other entry as it was, joins the tail otherwise, and at
8 entries the head is discarded first; the counters and RXQ_HIGH and RXQ_OVERRUN follow (R57, R58, R59). -/
def Obligations.TheQueueMergesJoinsAndOverruns : Prop :=
  ∀ (s : State) (f : Frame),
    ((∃ g ∈ s.table.queue, g.sender = f.sender) →
      (s.enqueue f).table.queue.map Frame.sender = s.table.queue.map Frame.sender ∧
      f ∈ (s.enqueue f).table.queue ∧
      (∀ pre g post, s.table.queue = pre ++ g :: post → g.sender = f.sender → (∀ x ∈ pre, x.sender ≠ f.sender) →
        (s.enqueue f).table = { s.table with
          queue := pre ++ f :: post
          merges := if s.table.merges = 65535#16 then s.table.merges else s.table.merges + 1#16 }) ∧
      (s.enqueue f).table.overruns = s.table.overruns ∧
      (s.enqueue f).table.merges =
        (if s.table.merges = 65535#16 then s.table.merges else s.table.merges + 1#16) ∧
      (s.enqueue f).port = s.port) ∧
    ((∀ g ∈ s.table.queue, g.sender ≠ f.sender) → s.table.queue.length < 8 →
      (s.enqueue f).table = { s.table with queue := s.table.queue ++ [f] } ∧
      (∀ e : Event, (s.enqueue f).port.latched e =
        (s.port.latched e || (decide (e = .rxqHigh) && decide (s.table.queue.length = 5))))) ∧
    (∀ head rest, (∀ g ∈ s.table.queue, g.sender ≠ f.sender) → s.table.queue = head :: rest → rest.length = 7 →
      (s.enqueue f).table = { s.table with
        queue := rest ++ [f]
        overruns := if s.table.overruns = 65535#16 then s.table.overruns else s.table.overruns + 1#16 } ∧
      (s.enqueue f).port.latched .rxqOverrun = true ∧ (s.enqueue f).port.details[8] = head.sender ∧
      (∀ e : Event, e ≠ .rxqOverrun → (s.enqueue f).port.latched e = s.port.latched e))

/-- FREEZE outside OFFLINE with the table not frozen fixes V at C, copies the live own record, starts the timer at
20,000 µs and answers V (R64, R109). THAW, and the expiry of the freeze timer, apply the queue in order from the head,
each frame leaving the queue and being applied with t_a = V, and then end the freeze and release the frozen copy; THAW
answers the number of entries, and the expiry latches FREEZE_EXPIRED; with no freeze THAW answers 0 and changes nothing
(R60, R65, R66, R67). So what the waiting frames do to the table, the session and the standings is done at the thaw,
and a car record is applied with the residual at V (R122, R124). -/
def Obligations.TheFreezeFixesAndEnds : Prop :=
  (∀ s : State, s.hears .freeze → s.session.phase ≠ .offline → s.table.freeze = none →
     exec .freeze s = .next (((s.setTable { s.table with freeze := some { view := s.now, left := 20000 } }).setMotion
       { live := s.motion.live, frozen := s.motion.live }).answering .ok (be4 s.now))) ∧
  ((∀ s : State, s.hears .thaw → s.table.freeze = none → exec .thaw s = .next (s.answering .ok [0#8])) ∧
   (∀ (i : Instr) (s : State) (f : Freeze), s.table.freeze = some f →
     ((i = .thaw ∧ s.hears i) ∨ (i = .freezeTimerExpiry ∧ s.inReset = false ∧ f.left = 0)) →
     ∃ t, exec i s = .next t ∧
       (let drained := drainList f.view s.table.queue s
        let ended := (drained.setTable { drained.table with freeze := none }).setMotion
          { drained.motion with frozen := none }
        (i = .thaw → t = ended.answering .ok [BitVec.ofNat 8 s.table.queue.length]) ∧
        (i = .freezeTimerExpiry → t = ended.signal .freezeExpired)) ∧
       (∀ g, s.table.queue = [g] →
         let r := (s.setTable { s.table with queue := [] }).applyFrame g f.view
         t.table.entries = r.table.entries ∧ t.session = r.session ∧ t.standings = r.standings ∧ t.prox = r.prox ∧
         t.motion = { r.motion with frozen := none } ∧
         (∀ x, g.body = .car x → (t.table.at g.sender).residual = s.newResidual g.sender g.tag x f.view)) ∧
       t.table.queue = [] ∧ t.table.freeze = none ∧ t.motion.frozen = none ∧
       (∀ st, (∀ g ∈ s.table.queue, g.sender ≠ st) → t.table.at st = s.table.at st) ∧
       (∀ g ∈ s.table.queue, (∀ g' ∈ s.table.queue, g'.sender = g.sender → g' = g) →
         (∀ b, g.body = .beacon b → (t.table.at g.sender).beacon = some (g.tag, b) ∧
           (t.table.at g.sender).lastKind = .beacon) ∧
         (∀ x, g.body = .car x → (t.table.at g.sender).car = some (g.tag, x) ∧
           (t.table.at g.sender).lastKind = .car ∧ (t.table.at g.sender).blendStart = f.view)) ∧
       (i = .thaw → t.port.response = [0#8, BitVec.ofNat 8 s.table.queue.length]) ∧
       (i = .freezeTimerExpiry → t.port.latched .freezeExpired = true) ∧
       t.table.merges = s.table.merges ∧ t.table.overruns = s.table.overruns ∧
       s.port.latch &&& t.port.latch = s.port.latch ∧ t.port.mask = s.port.mask ∧
       t.pending = s.pending ∧ t.choices = s.choices ∧ t.inReset = false ∧ t.straps = s.straps ∧ t.store = s.store ∧
       t.bus = s.bus ∧ t.link = s.link ∧ t.clock = s.clock ∧ t.patterns = s.patterns)) ∧
  (∀ (ta : Time) (s : State), drainList ta [] s = s ∧ ∀ g rest, drainList ta (g :: rest) s =
     drainList ta rest ((s.setTable { s.table with queue := s.table.queue.tail }).applyFrame g ta))

/-! ## Formats -/

/-- The bytes a host clocks in spell the command again, for every well-formed command with every operand, and bytes
that spell a command are that command's; a command is spelled exactly when the operand bytes are as many as the command
byte calls for, the step count of SET PATTERN among them whether or not it is accepted (R172, R187, R188, R191; 11,
Command codes and Operands). -/
def Obligations.HostBytesSpellTheCommand : Prop :=
  (∀ (i : Instr) (bs : List Byte), i.wellFormed = true → commandBytes i = some bs → decodeCommand bs = some i) ∧
  (∀ (i : Instr) (bs : List Byte), decodeCommand bs = some i → i.wellFormed = true ∧ commandBytes i = some bs) ∧
  (∀ (code : Byte) (operands : List Byte),
    (decodeCommand (code :: operands)).isSome = true ↔ operands.length = operandLength code operands)

/-- The bytes of a frame, received without a framing error, are judged a valid frame that carries the same sender, tag
and body and the stamp, and have the length of R4; a run judged valid begins with the sync byte, has no framing error,
has the length its kind and flags give, passes the field checks and carries the CRC of its covered bytes (R4, R5, R6,
R7, R18). The bytes stand at the offsets of the formats section: the sync byte, the kind and sender, the tag, the
stamp, the body and the CRC, high byte first; and in the bodies every flag, mask and field in its place. -/
def Obligations.FramesAndRunsAgree : Prop :=
  (∀ (f : Frame) (stamp : Time),
     (∀ b, f.body = .beacon b → b.agreed.isSome = true → b.proposal.isSome = true) →
     (∀ c, f.body = .car c → c.lap.toNat ≤ 5 ∧ c.position.toNat ≤ 7999999) →
     judgeRun ((f.bytes stamp).map fun b => { value := b, framingError := false }) = some (f, stamp) ∧
     (f.bytes stamp).length = f.length) ∧
  (∀ (run : List RxByte) (f : Frame) (stamp : Time), judgeRun run = some (f, stamp) →
     (∀ b ∈ run, b.framingError = false) ∧ run.length = f.length ∧
     (∃ covered tail, run.map RxByte.value = 0x5D#8 :: (covered ++ tail) ∧ tail = be2 (crc16 covered)) ∧
     (∀ b, f.body = .beacon b → b.agreed.isSome = true → b.proposal.isSome = true) ∧
     (∀ c, f.body = .car c → c.lap.toNat ≤ 5 ∧ c.position.toNat ≤ 7999999)) ∧
  (∀ (f : Frame) (stamp : Time),
     let four := fun x : BitVec 32 =>
       ([x.extractLsb' 24 8, x.extractLsb' 16 8, x.extractLsb' 8 8, x.extractLsb' 0 8] : List Byte)
     let kind : Byte := match f.body with
       | .beacon _ => 0x10#8
       | .car _ => 0x20#8
     let body := match f.body with
       | .beacon b => beaconHead b ++ b.proposal.elim [] four ++ b.agreed.elim [] four
       | .car c => carHead c ++ c.finish.elim [] four
     let covered := [kind ||| BitVec.ofNat 8 f.sender.val, f.tag] ++ four stamp ++ body
     f.bytes stamp = 0x5D#8 :: (covered ++
       [(crc16 covered).extractLsb' 8 8, (crc16 covered).extractLsb' 0 8])) ∧
  (∀ b : Beacon, beaconHead b =
     [(match b.phase with
         | .lobby => 0x01#8
         | .proposing => 0x02#8
         | .armed => 0x03#8) ||| (if b.ready then 0x10#8 else 0) ||| (if b.abort then 0x20#8 else 0) |||
         (if b.proposal.isSome then 0x40#8 else 0) ||| (if b.agreed.isSome then 0x80#8 else 0),
       b.offer.courses, b.offer.laps.setWidth 8 ||| (b.offer.options.setWidth 8 <<< 4),
       b.roster.extractLsb' 8 8, b.roster.extractLsb' 0 8,
       b.rule.course.setWidth 8 ||| (b.rule.lapCode.setWidth 8 <<< 3) ||| (b.rule.options.setWidth 8 <<< 5) |||
         (if b.rule.isNone then 0x80#8 else 0)]) ∧
  (∀ c : CarRecord, carHead c =
     [(if c.inPit then 0x01#8 else 0) ||| (if c.offTrack then 0x02#8 else 0) ||| (if c.respawn then 0x04#8 else 0) |||
         (if c.finish.isSome then 0x08#8 else 0),
       c.lap, c.position.extractLsb' 16 8, c.position.extractLsb' 8 8, c.position.extractLsb' 0 8,
       c.speed.extractLsb' 8 8, c.speed.extractLsb' 0 8, c.accel.extractLsb' 8 8, c.accel.extractLsb' 0 8, c.lateral,
       c.recordTime.extractLsb' 24 8, c.recordTime.extractLsb' 16 8, c.recordTime.extractLsb' 8 8,
       c.recordTime.extractLsb' 0 8]) ∧
  (crc16 [] = 0xFFFF#16 ∧ ∀ (bs : List Byte) (b : Byte), crc16 (bs ++ [b]) =
     (fun r : BitVec 16 => if r.msb then (r <<< 1) ^^^ 0x1021#16 else r <<< 1)^[8] (crc16 bs ^^^ (b ++ 0#8)))

/-! ## Whole-machine rules -/

/-- The reset state is safe. Its straps are the model's choice (assumption 1). -/
def Obligations.ResetIsSafe : Prop :=
  State.reset.Safe

/-- Every step keeps the parameters of the configuration store and the course table in their ranges (R192, R194). -/
def Obligations.StepsKeepTheStoreInRange : Prop :=
  ∀ s t : State, s.store.InRange → step s = .next t → t.store.InRange

/-- Every step keeps the Receive Queue at 8 entries at most, no two from one sender, empty while the table is not
frozen (R57, R60), and the own station's sender record, entry and proximity entry at their reset values (R24, R55,
R134). -/
def Obligations.StepsKeepTheQueueAndTheOwnStation : Prop :=
  (∀ s t : State, s.table.QueueOk → step s = .next t → t.table.QueueOk) ∧
  (∀ s t : State, s.OwnQuiet → step s = .next t → t.OwnQuiet)

/-- Every step keeps the payment count, the debt and the clock of OFFLINE within the rules (R43, R48, R49). -/
def Obligations.StepsKeepTheClockOk : Prop :=
  ∀ s t : State, s.ClockOk → step s = .next t → t.ClockOk

/-- Every step keeps what stands and what is absent in each phase of a session (R8, R72, R84, R88, R99, R107, R108,
R109, R135, R152). -/
def Obligations.StepsKeepTheSessionOk : Prop :=
  ∀ s t : State, s.SessionOk → step s = .next t → t.SessionOk

/-- Outside OFFLINE only a reset changes the configuration store; nothing but a release of the reset pin changes the
sampled straps (R192, R193, R194, R200). -/
def Obligations.ConfigurationStandsThroughASession : Prop :=
  ∀ (i : Instr) (s t : State), exec i s = .next t →
    (s.session.phase ≠ .offline → ¬ s.resetBy i → t.store = s.store ∧ t.patterns = s.patterns) ∧
    ((∀ st r a, i ≠ .resetRelease st r a) → t.straps = s.straps)
end

