-- ==== Sys2Proof/Laws/State.lean ====
section
/-! SUPPORT. One lemma per field per update of State: what each update sets, and what it leaves. -/

namespace Sys2Proof.Machine

variable (s : State)

@[simp] theorem State.setPending_pending (x : List Instr) : (s.setPending x).pending = x := rfl
@[simp] theorem State.setPending_choices (x : List Instr) : (s.setPending x).choices = s.choices := rfl
@[simp] theorem State.setPending_inReset (x : List Instr) : (s.setPending x).inReset = s.inReset := rfl
@[simp] theorem State.setPending_straps (x : List Instr) : (s.setPending x).straps = s.straps := rfl
@[simp] theorem State.setPending_store (x : List Instr) : (s.setPending x).store = s.store := rfl
@[simp] theorem State.setPending_bus (x : List Instr) : (s.setPending x).bus = s.bus := rfl
@[simp] theorem State.setPending_link (x : List Instr) : (s.setPending x).link = s.link := rfl
@[simp] theorem State.setPending_clock (x : List Instr) : (s.setPending x).clock = s.clock := rfl
@[simp] theorem State.setPending_table (x : List Instr) : (s.setPending x).table = s.table := rfl
@[simp] theorem State.setPending_session (x : List Instr) : (s.setPending x).session = s.session := rfl
@[simp] theorem State.setPending_motion (x : List Instr) : (s.setPending x).motion = s.motion := rfl
@[simp] theorem State.setPending_prox (x : List Instr) : (s.setPending x).prox = s.prox := rfl
@[simp] theorem State.setPending_standings (x : List Instr) : (s.setPending x).standings = s.standings := rfl
@[simp] theorem State.setPending_patterns (x : List Instr) : (s.setPending x).patterns = s.patterns := rfl
@[simp] theorem State.setPending_port (x : List Instr) : (s.setPending x).port = s.port := rfl

@[simp] theorem State.setChoices_pending (x : Nat) : (s.setChoices x).pending = s.pending := rfl
@[simp] theorem State.setChoices_choices (x : Nat) : (s.setChoices x).choices = x := rfl
@[simp] theorem State.setChoices_inReset (x : Nat) : (s.setChoices x).inReset = s.inReset := rfl
@[simp] theorem State.setChoices_straps (x : Nat) : (s.setChoices x).straps = s.straps := rfl
@[simp] theorem State.setChoices_store (x : Nat) : (s.setChoices x).store = s.store := rfl
@[simp] theorem State.setChoices_bus (x : Nat) : (s.setChoices x).bus = s.bus := rfl
@[simp] theorem State.setChoices_link (x : Nat) : (s.setChoices x).link = s.link := rfl
@[simp] theorem State.setChoices_clock (x : Nat) : (s.setChoices x).clock = s.clock := rfl
@[simp] theorem State.setChoices_table (x : Nat) : (s.setChoices x).table = s.table := rfl
@[simp] theorem State.setChoices_session (x : Nat) : (s.setChoices x).session = s.session := rfl
@[simp] theorem State.setChoices_motion (x : Nat) : (s.setChoices x).motion = s.motion := rfl
@[simp] theorem State.setChoices_prox (x : Nat) : (s.setChoices x).prox = s.prox := rfl
@[simp] theorem State.setChoices_standings (x : Nat) : (s.setChoices x).standings = s.standings := rfl
@[simp] theorem State.setChoices_patterns (x : Nat) : (s.setChoices x).patterns = s.patterns := rfl
@[simp] theorem State.setChoices_port (x : Nat) : (s.setChoices x).port = s.port := rfl

@[simp] theorem State.setInReset_pending (x : Bool) : (s.setInReset x).pending = s.pending := rfl
@[simp] theorem State.setInReset_choices (x : Bool) : (s.setInReset x).choices = s.choices := rfl
@[simp] theorem State.setInReset_inReset (x : Bool) : (s.setInReset x).inReset = x := rfl
@[simp] theorem State.setInReset_straps (x : Bool) : (s.setInReset x).straps = s.straps := rfl
@[simp] theorem State.setInReset_store (x : Bool) : (s.setInReset x).store = s.store := rfl
@[simp] theorem State.setInReset_bus (x : Bool) : (s.setInReset x).bus = s.bus := rfl
@[simp] theorem State.setInReset_link (x : Bool) : (s.setInReset x).link = s.link := rfl
@[simp] theorem State.setInReset_clock (x : Bool) : (s.setInReset x).clock = s.clock := rfl
@[simp] theorem State.setInReset_table (x : Bool) : (s.setInReset x).table = s.table := rfl
@[simp] theorem State.setInReset_session (x : Bool) : (s.setInReset x).session = s.session := rfl
@[simp] theorem State.setInReset_motion (x : Bool) : (s.setInReset x).motion = s.motion := rfl
@[simp] theorem State.setInReset_prox (x : Bool) : (s.setInReset x).prox = s.prox := rfl
@[simp] theorem State.setInReset_standings (x : Bool) : (s.setInReset x).standings = s.standings := rfl
@[simp] theorem State.setInReset_patterns (x : Bool) : (s.setInReset x).patterns = s.patterns := rfl
@[simp] theorem State.setInReset_port (x : Bool) : (s.setInReset x).port = s.port := rfl

@[simp] theorem State.setStore_pending (x : Store) : (s.setStore x).pending = s.pending := rfl
@[simp] theorem State.setStore_choices (x : Store) : (s.setStore x).choices = s.choices := rfl
@[simp] theorem State.setStore_inReset (x : Store) : (s.setStore x).inReset = s.inReset := rfl
@[simp] theorem State.setStore_straps (x : Store) : (s.setStore x).straps = s.straps := rfl
@[simp] theorem State.setStore_store (x : Store) : (s.setStore x).store = x := rfl
@[simp] theorem State.setStore_bus (x : Store) : (s.setStore x).bus = s.bus := rfl
@[simp] theorem State.setStore_link (x : Store) : (s.setStore x).link = s.link := rfl
@[simp] theorem State.setStore_clock (x : Store) : (s.setStore x).clock = s.clock := rfl
@[simp] theorem State.setStore_table (x : Store) : (s.setStore x).table = s.table := rfl
@[simp] theorem State.setStore_session (x : Store) : (s.setStore x).session = s.session := rfl
@[simp] theorem State.setStore_motion (x : Store) : (s.setStore x).motion = s.motion := rfl
@[simp] theorem State.setStore_prox (x : Store) : (s.setStore x).prox = s.prox := rfl
@[simp] theorem State.setStore_standings (x : Store) : (s.setStore x).standings = s.standings := rfl
@[simp] theorem State.setStore_patterns (x : Store) : (s.setStore x).patterns = s.patterns := rfl
@[simp] theorem State.setStore_port (x : Store) : (s.setStore x).port = s.port := rfl

@[simp] theorem State.setBus_pending (x : Bus) : (s.setBus x).pending = s.pending := rfl
@[simp] theorem State.setBus_choices (x : Bus) : (s.setBus x).choices = s.choices := rfl
@[simp] theorem State.setBus_inReset (x : Bus) : (s.setBus x).inReset = s.inReset := rfl
@[simp] theorem State.setBus_straps (x : Bus) : (s.setBus x).straps = s.straps := rfl
@[simp] theorem State.setBus_store (x : Bus) : (s.setBus x).store = s.store := rfl
@[simp] theorem State.setBus_bus (x : Bus) : (s.setBus x).bus = x := rfl
@[simp] theorem State.setBus_link (x : Bus) : (s.setBus x).link = s.link := rfl
@[simp] theorem State.setBus_clock (x : Bus) : (s.setBus x).clock = s.clock := rfl
@[simp] theorem State.setBus_table (x : Bus) : (s.setBus x).table = s.table := rfl
@[simp] theorem State.setBus_session (x : Bus) : (s.setBus x).session = s.session := rfl
@[simp] theorem State.setBus_motion (x : Bus) : (s.setBus x).motion = s.motion := rfl
@[simp] theorem State.setBus_prox (x : Bus) : (s.setBus x).prox = s.prox := rfl
@[simp] theorem State.setBus_standings (x : Bus) : (s.setBus x).standings = s.standings := rfl
@[simp] theorem State.setBus_patterns (x : Bus) : (s.setBus x).patterns = s.patterns := rfl
@[simp] theorem State.setBus_port (x : Bus) : (s.setBus x).port = s.port := rfl

@[simp] theorem State.setLink_pending (x : Link) : (s.setLink x).pending = s.pending := rfl
@[simp] theorem State.setLink_choices (x : Link) : (s.setLink x).choices = s.choices := rfl
@[simp] theorem State.setLink_inReset (x : Link) : (s.setLink x).inReset = s.inReset := rfl
@[simp] theorem State.setLink_straps (x : Link) : (s.setLink x).straps = s.straps := rfl
@[simp] theorem State.setLink_store (x : Link) : (s.setLink x).store = s.store := rfl
@[simp] theorem State.setLink_bus (x : Link) : (s.setLink x).bus = s.bus := rfl
@[simp] theorem State.setLink_link (x : Link) : (s.setLink x).link = x := rfl
@[simp] theorem State.setLink_clock (x : Link) : (s.setLink x).clock = s.clock := rfl
@[simp] theorem State.setLink_table (x : Link) : (s.setLink x).table = s.table := rfl
@[simp] theorem State.setLink_session (x : Link) : (s.setLink x).session = s.session := rfl
@[simp] theorem State.setLink_motion (x : Link) : (s.setLink x).motion = s.motion := rfl
@[simp] theorem State.setLink_prox (x : Link) : (s.setLink x).prox = s.prox := rfl
@[simp] theorem State.setLink_standings (x : Link) : (s.setLink x).standings = s.standings := rfl
@[simp] theorem State.setLink_patterns (x : Link) : (s.setLink x).patterns = s.patterns := rfl
@[simp] theorem State.setLink_port (x : Link) : (s.setLink x).port = s.port := rfl

@[simp] theorem State.setClock_pending (x : Clock) : (s.setClock x).pending = s.pending := rfl
@[simp] theorem State.setClock_choices (x : Clock) : (s.setClock x).choices = s.choices := rfl
@[simp] theorem State.setClock_inReset (x : Clock) : (s.setClock x).inReset = s.inReset := rfl
@[simp] theorem State.setClock_straps (x : Clock) : (s.setClock x).straps = s.straps := rfl
@[simp] theorem State.setClock_store (x : Clock) : (s.setClock x).store = s.store := rfl
@[simp] theorem State.setClock_bus (x : Clock) : (s.setClock x).bus = s.bus := rfl
@[simp] theorem State.setClock_link (x : Clock) : (s.setClock x).link = s.link := rfl
@[simp] theorem State.setClock_clock (x : Clock) : (s.setClock x).clock = x := rfl
@[simp] theorem State.setClock_table (x : Clock) : (s.setClock x).table = s.table := rfl
@[simp] theorem State.setClock_session (x : Clock) : (s.setClock x).session = s.session := rfl
@[simp] theorem State.setClock_motion (x : Clock) : (s.setClock x).motion = s.motion := rfl
@[simp] theorem State.setClock_prox (x : Clock) : (s.setClock x).prox = s.prox := rfl
@[simp] theorem State.setClock_standings (x : Clock) : (s.setClock x).standings = s.standings := rfl
@[simp] theorem State.setClock_patterns (x : Clock) : (s.setClock x).patterns = s.patterns := rfl
@[simp] theorem State.setClock_port (x : Clock) : (s.setClock x).port = s.port := rfl

@[simp] theorem State.setTable_pending (x : Table) : (s.setTable x).pending = s.pending := rfl
@[simp] theorem State.setTable_choices (x : Table) : (s.setTable x).choices = s.choices := rfl
@[simp] theorem State.setTable_inReset (x : Table) : (s.setTable x).inReset = s.inReset := rfl
@[simp] theorem State.setTable_straps (x : Table) : (s.setTable x).straps = s.straps := rfl
@[simp] theorem State.setTable_store (x : Table) : (s.setTable x).store = s.store := rfl
@[simp] theorem State.setTable_bus (x : Table) : (s.setTable x).bus = s.bus := rfl
@[simp] theorem State.setTable_link (x : Table) : (s.setTable x).link = s.link := rfl
@[simp] theorem State.setTable_clock (x : Table) : (s.setTable x).clock = s.clock := rfl
@[simp] theorem State.setTable_table (x : Table) : (s.setTable x).table = x := rfl
@[simp] theorem State.setTable_session (x : Table) : (s.setTable x).session = s.session := rfl
@[simp] theorem State.setTable_motion (x : Table) : (s.setTable x).motion = s.motion := rfl
@[simp] theorem State.setTable_prox (x : Table) : (s.setTable x).prox = s.prox := rfl
@[simp] theorem State.setTable_standings (x : Table) : (s.setTable x).standings = s.standings := rfl
@[simp] theorem State.setTable_patterns (x : Table) : (s.setTable x).patterns = s.patterns := rfl
@[simp] theorem State.setTable_port (x : Table) : (s.setTable x).port = s.port := rfl

@[simp] theorem State.setSession_pending (x : Session) : (s.setSession x).pending = s.pending := rfl
@[simp] theorem State.setSession_choices (x : Session) : (s.setSession x).choices = s.choices := rfl
@[simp] theorem State.setSession_inReset (x : Session) : (s.setSession x).inReset = s.inReset := rfl
@[simp] theorem State.setSession_straps (x : Session) : (s.setSession x).straps = s.straps := rfl
@[simp] theorem State.setSession_store (x : Session) : (s.setSession x).store = s.store := rfl
@[simp] theorem State.setSession_bus (x : Session) : (s.setSession x).bus = s.bus := rfl
@[simp] theorem State.setSession_link (x : Session) : (s.setSession x).link = s.link := rfl
@[simp] theorem State.setSession_clock (x : Session) : (s.setSession x).clock = s.clock := rfl
@[simp] theorem State.setSession_table (x : Session) : (s.setSession x).table = s.table := rfl
@[simp] theorem State.setSession_session (x : Session) : (s.setSession x).session = x := rfl
@[simp] theorem State.setSession_motion (x : Session) : (s.setSession x).motion = s.motion := rfl
@[simp] theorem State.setSession_prox (x : Session) : (s.setSession x).prox = s.prox := rfl
@[simp] theorem State.setSession_standings (x : Session) : (s.setSession x).standings = s.standings := rfl
@[simp] theorem State.setSession_patterns (x : Session) : (s.setSession x).patterns = s.patterns := rfl
@[simp] theorem State.setSession_port (x : Session) : (s.setSession x).port = s.port := rfl

@[simp] theorem State.setMotion_pending (x : Motion) : (s.setMotion x).pending = s.pending := rfl
@[simp] theorem State.setMotion_choices (x : Motion) : (s.setMotion x).choices = s.choices := rfl
@[simp] theorem State.setMotion_inReset (x : Motion) : (s.setMotion x).inReset = s.inReset := rfl
@[simp] theorem State.setMotion_straps (x : Motion) : (s.setMotion x).straps = s.straps := rfl
@[simp] theorem State.setMotion_store (x : Motion) : (s.setMotion x).store = s.store := rfl
@[simp] theorem State.setMotion_bus (x : Motion) : (s.setMotion x).bus = s.bus := rfl
@[simp] theorem State.setMotion_link (x : Motion) : (s.setMotion x).link = s.link := rfl
@[simp] theorem State.setMotion_clock (x : Motion) : (s.setMotion x).clock = s.clock := rfl
@[simp] theorem State.setMotion_table (x : Motion) : (s.setMotion x).table = s.table := rfl
@[simp] theorem State.setMotion_session (x : Motion) : (s.setMotion x).session = s.session := rfl
@[simp] theorem State.setMotion_motion (x : Motion) : (s.setMotion x).motion = x := rfl
@[simp] theorem State.setMotion_prox (x : Motion) : (s.setMotion x).prox = s.prox := rfl
@[simp] theorem State.setMotion_standings (x : Motion) : (s.setMotion x).standings = s.standings := rfl
@[simp] theorem State.setMotion_patterns (x : Motion) : (s.setMotion x).patterns = s.patterns := rfl
@[simp] theorem State.setMotion_port (x : Motion) : (s.setMotion x).port = s.port := rfl

@[simp] theorem State.setProx_pending (x : Prox) : (s.setProx x).pending = s.pending := rfl
@[simp] theorem State.setProx_choices (x : Prox) : (s.setProx x).choices = s.choices := rfl
@[simp] theorem State.setProx_inReset (x : Prox) : (s.setProx x).inReset = s.inReset := rfl
@[simp] theorem State.setProx_straps (x : Prox) : (s.setProx x).straps = s.straps := rfl
@[simp] theorem State.setProx_store (x : Prox) : (s.setProx x).store = s.store := rfl
@[simp] theorem State.setProx_bus (x : Prox) : (s.setProx x).bus = s.bus := rfl
@[simp] theorem State.setProx_link (x : Prox) : (s.setProx x).link = s.link := rfl
@[simp] theorem State.setProx_clock (x : Prox) : (s.setProx x).clock = s.clock := rfl
@[simp] theorem State.setProx_table (x : Prox) : (s.setProx x).table = s.table := rfl
@[simp] theorem State.setProx_session (x : Prox) : (s.setProx x).session = s.session := rfl
@[simp] theorem State.setProx_motion (x : Prox) : (s.setProx x).motion = s.motion := rfl
@[simp] theorem State.setProx_prox (x : Prox) : (s.setProx x).prox = x := rfl
@[simp] theorem State.setProx_standings (x : Prox) : (s.setProx x).standings = s.standings := rfl
@[simp] theorem State.setProx_patterns (x : Prox) : (s.setProx x).patterns = s.patterns := rfl
@[simp] theorem State.setProx_port (x : Prox) : (s.setProx x).port = s.port := rfl

@[simp] theorem State.setStandings_pending (x : Standings) : (s.setStandings x).pending = s.pending := rfl
@[simp] theorem State.setStandings_choices (x : Standings) : (s.setStandings x).choices = s.choices := rfl
@[simp] theorem State.setStandings_inReset (x : Standings) : (s.setStandings x).inReset = s.inReset := rfl
@[simp] theorem State.setStandings_straps (x : Standings) : (s.setStandings x).straps = s.straps := rfl
@[simp] theorem State.setStandings_store (x : Standings) : (s.setStandings x).store = s.store := rfl
@[simp] theorem State.setStandings_bus (x : Standings) : (s.setStandings x).bus = s.bus := rfl
@[simp] theorem State.setStandings_link (x : Standings) : (s.setStandings x).link = s.link := rfl
@[simp] theorem State.setStandings_clock (x : Standings) : (s.setStandings x).clock = s.clock := rfl
@[simp] theorem State.setStandings_table (x : Standings) : (s.setStandings x).table = s.table := rfl
@[simp] theorem State.setStandings_session (x : Standings) : (s.setStandings x).session = s.session := rfl
@[simp] theorem State.setStandings_motion (x : Standings) : (s.setStandings x).motion = s.motion := rfl
@[simp] theorem State.setStandings_prox (x : Standings) : (s.setStandings x).prox = s.prox := rfl
@[simp] theorem State.setStandings_standings (x : Standings) : (s.setStandings x).standings = x := rfl
@[simp] theorem State.setStandings_patterns (x : Standings) : (s.setStandings x).patterns = s.patterns := rfl
@[simp] theorem State.setStandings_port (x : Standings) : (s.setStandings x).port = s.port := rfl

@[simp] theorem State.setPatterns_pending (x : Patterns) : (s.setPatterns x).pending = s.pending := rfl
@[simp] theorem State.setPatterns_choices (x : Patterns) : (s.setPatterns x).choices = s.choices := rfl
@[simp] theorem State.setPatterns_inReset (x : Patterns) : (s.setPatterns x).inReset = s.inReset := rfl
@[simp] theorem State.setPatterns_straps (x : Patterns) : (s.setPatterns x).straps = s.straps := rfl
@[simp] theorem State.setPatterns_store (x : Patterns) : (s.setPatterns x).store = s.store := rfl
@[simp] theorem State.setPatterns_bus (x : Patterns) : (s.setPatterns x).bus = s.bus := rfl
@[simp] theorem State.setPatterns_link (x : Patterns) : (s.setPatterns x).link = s.link := rfl
@[simp] theorem State.setPatterns_clock (x : Patterns) : (s.setPatterns x).clock = s.clock := rfl
@[simp] theorem State.setPatterns_table (x : Patterns) : (s.setPatterns x).table = s.table := rfl
@[simp] theorem State.setPatterns_session (x : Patterns) : (s.setPatterns x).session = s.session := rfl
@[simp] theorem State.setPatterns_motion (x : Patterns) : (s.setPatterns x).motion = s.motion := rfl
@[simp] theorem State.setPatterns_prox (x : Patterns) : (s.setPatterns x).prox = s.prox := rfl
@[simp] theorem State.setPatterns_standings (x : Patterns) : (s.setPatterns x).standings = s.standings := rfl
@[simp] theorem State.setPatterns_patterns (x : Patterns) : (s.setPatterns x).patterns = x := rfl
@[simp] theorem State.setPatterns_port (x : Patterns) : (s.setPatterns x).port = s.port := rfl

@[simp] theorem State.setPort_pending (x : Port) : (s.setPort x).pending = s.pending := rfl
@[simp] theorem State.setPort_choices (x : Port) : (s.setPort x).choices = s.choices := rfl
@[simp] theorem State.setPort_inReset (x : Port) : (s.setPort x).inReset = s.inReset := rfl
@[simp] theorem State.setPort_straps (x : Port) : (s.setPort x).straps = s.straps := rfl
@[simp] theorem State.setPort_store (x : Port) : (s.setPort x).store = s.store := rfl
@[simp] theorem State.setPort_bus (x : Port) : (s.setPort x).bus = s.bus := rfl
@[simp] theorem State.setPort_link (x : Port) : (s.setPort x).link = s.link := rfl
@[simp] theorem State.setPort_clock (x : Port) : (s.setPort x).clock = s.clock := rfl
@[simp] theorem State.setPort_table (x : Port) : (s.setPort x).table = s.table := rfl
@[simp] theorem State.setPort_session (x : Port) : (s.setPort x).session = s.session := rfl
@[simp] theorem State.setPort_motion (x : Port) : (s.setPort x).motion = s.motion := rfl
@[simp] theorem State.setPort_prox (x : Port) : (s.setPort x).prox = s.prox := rfl
@[simp] theorem State.setPort_standings (x : Port) : (s.setPort x).standings = s.standings := rfl
@[simp] theorem State.setPort_patterns (x : Port) : (s.setPort x).patterns = s.patterns := rfl
@[simp] theorem State.setPort_port (x : Port) : (s.setPort x).port = x := rfl

/-- A block written back as it stands changes nothing. -/
@[simp] theorem State.setSession_self : s.setSession s.session = s := rfl
@[simp] theorem State.setPort_self : s.setPort s.port = s := rfl
@[simp] theorem State.setTable_self : s.setTable s.table = s := rfl
@[simp] theorem State.setBus_self : s.setBus s.bus = s := rfl

/-- The last of two writes of one block stands. -/
@[simp] theorem State.setSession_setSession (x y : Session) : (s.setSession x).setSession y = s.setSession y := rfl
@[simp] theorem State.setPort_setPort (x y : Port) : (s.setPort x).setPort y = s.setPort y := rfl
@[simp] theorem State.setTable_setTable (x y : Table) : (s.setTable x).setTable y = s.setTable y := rfl
@[simp] theorem State.setBus_setBus (x y : Bus) : (s.setBus x).setBus y = s.setBus y := rfl

end Sys2Proof.Machine
end

