-- ==== Sys2Proof/Laws/Ops.lean ====
section
/-! SUPPORT. The small laws of the shared operations: per-station records, station sets, bytes, and the gates every command
passes. -/

namespace Sys2Proof.Machine

/-! ## Stations -/

theorem mem_stations (st : Station) : st ∈ stations := by revert st; decide

theorem stations_nodup : stations.Nodup := by decide

theorem stations_length : stations.length = 16 := rfl

theorem stations_get (st : Station) : stations[st.val]'(by rw [stations_length]; exact st.isLt) = st := by
  revert st; decide

/-! ## Per-station records -/

@[simp] theorem mapAll_get {α β : Type} (f : α → β) (v : Vector α 16) (i : Nat) (h : i < 16) :
    (mapAll f v)[i] = f v[i] := by
  simp [mapAll, Vector.getElem_toList]

@[simp] theorem buildAll_get {β : Type} (f : Station → β) (i : Nat) (h : i < 16) : (buildAll f)[i] = f ⟨i, h⟩ := by
  change (stations.map f)[i]'(by rw [List.length_map, stations_length]; exact h) = _
  rw [List.getElem_map]
  exact congrArg f (stations_get ⟨i, h⟩)

@[simp] theorem Link.put_at_self (l : Link) (st : Station) (x : Sender) : (l.put st x).at st = x := by
  simp [Link.put, Link.at]
theorem Link.put_at_ne (l : Link) {st st' : Station} (x : Sender) (h : st' ≠ st) : (l.put st x).at st' = l.at st' := by
  have : st.val ≠ st'.val := fun e => h (Fin.ext e.symm)
  simp [Link.put, Link.at, this]
@[simp] theorem Link.put_window (l : Link) (st : Station) (x : Sender) : (l.put st x).window = l.window := rfl

@[simp] theorem Table.put_at_self (t : Table) (st : Station) (x : Entry) : (t.put st x).at st = x := by
  simp [Table.put, Table.at]
theorem Table.put_at_ne (t : Table) {st st' : Station} (x : Entry) (h : st' ≠ st) :
    (t.put st x).at st' = t.at st' := by
  have : st.val ≠ st'.val := fun e => h (Fin.ext e.symm)
  simp [Table.put, Table.at, this]
@[simp] theorem Table.put_queue (t : Table) (st : Station) (x : Entry) : (t.put st x).queue = t.queue := rfl
@[simp] theorem Table.put_freeze (t : Table) (st : Station) (x : Entry) : (t.put st x).freeze = t.freeze := rfl
@[simp] theorem Table.put_merges (t : Table) (st : Station) (x : Entry) : (t.put st x).merges = t.merges := rfl
@[simp] theorem Table.put_overruns (t : Table) (st : Station) (x : Entry) : (t.put st x).overruns = t.overruns := rfl

@[simp] theorem Session.putProposal_self (x : Session) (st : Station) (p : Option Time) :
    (x.putProposal st p).proposalOf st = p := by
  simp [Session.putProposal, Session.proposalOf]
theorem Session.putProposal_ne (x : Session) {st st' : Station} (p : Option Time) (h : st' ≠ st) :
    (x.putProposal st p).proposalOf st' = x.proposalOf st' := by
  have : st.val ≠ st'.val := fun e => h (Fin.ext e.symm)
  simp [Session.putProposal, Session.proposalOf, this]

@[simp] theorem Standings.put_at_self (x : Standings) (st : Station) (r : Starter) : (x.put st r).at st = some r := by
  simp [Standings.put, Standings.at]
theorem Standings.put_at_ne (x : Standings) {st st' : Station} (r : Starter) (h : st' ≠ st) :
    (x.put st r).at st' = x.at st' := by
  have : st.val ≠ st'.val := fun e => h (Fin.ext e.symm)
  simp [Standings.put, Standings.at, this]
@[simp] theorem Standings.put_final (x : Standings) (st : Station) (r : Starter) : (x.put st r).final = x.final := rfl
@[simp] theorem Standings.put_overAt (x : Standings) (st : Station) (r : Starter) : (x.put st r).overAt = x.overAt := rfl
@[simp] theorem Standings.put_cause (x : Standings) (st : Station) (r : Starter) : (x.put st r).cause = x.cause := rfl
@[simp] theorem Standings.empty_at (st : Station) : Standings.empty.at st = none := by
  simp [Standings.empty, Standings.at]

@[simp] theorem Prox.put_at_self (p : Prox) (st : Station) (x : ProxEntry) : (p.put st x).at st = x := by
  simp [Prox.put, Prox.at]
theorem Prox.put_at_ne (p : Prox) {st st' : Station} (x : ProxEntry) (h : st' ≠ st) :
    (p.put st x).at st' = p.at st' := by
  have : st.val ≠ st'.val := fun e => h (Fin.ext e.symm)
  simp [Prox.put, Prox.at, this]
@[simp] theorem Prox.put_timer (p : Prox) (st : Station) (x : ProxEntry) : (p.put st x).timer = p.timer := rfl
@[simp] theorem Prox.put_enabled (p : Prox) (st : Station) (x : ProxEntry) : (p.put st x).enabled = p.enabled := rfl
@[simp] theorem Prox.put_position (p : Prox) (st : Station) (x : ProxEntry) : (p.put st x).position = p.position := rfl
@[simp] theorem Prox.cleared_at (p : Prox) (st : Station) : p.cleared.at st = ProxEntry.clear := by
  simp [Prox.cleared, Prox.at]

theorem Link.newWindow_at (l : Link) (n : Nat) (st : Station) :
    (l.newWindow n).at st = { l.at st with count := 0, sample := none } := by
  simp [Link.newWindow, Link.at]

theorem Standings.at_mapAll (x : Standings) (f : Option Starter → Option Starter) (st : Station) :
    Standings.at { x with starters := mapAll f x.starters } st = f (x.at st) := by
  simp [Standings.at]

/-! ## Station sets -/

theorem member_or (a b : StationSet) (st : Station) : member (a ||| b) st = (member a st || member b st) := by
  simp [member]

theorem member_single (a b : Station) : member (single a) b = decide (a = b) := by
  revert a b; decide

theorem member_zero (st : Station) : member 0#16 st = false := by simp [member]

/-- A station belongs to the set of the stations a test accepts exactly when the test accepts it. -/
theorem member_setOf (p : Station → Bool) (st : Station) : member (setOf p) st = p st := by
  have h : ∀ (l : List Station) (m : StationSet),
      member (l.foldl (fun m st => if p st then m ||| single st else m) m) st =
        (member m st || (decide (st ∈ l) && p st)) := by
    intro l
    induction l with
    | nil => simp
    | cons a l ih =>
      intro m
      rw [List.foldl_cons, ih]
      by_cases ha : st = a
      · subst ha
        by_cases hp : p st = true <;> simp [hp, member_or, member_single]
      · have ha' : a ≠ st := fun e => ha e.symm
        by_cases hp : p a = true <;> simp [hp, member_or, member_single, ha, ha']
  rw [setOf, h, member_zero]
  simp [mem_stations]

theorem mem_members (m : StationSet) (st : Station) : st ∈ members m ↔ member m st = true := by
  simp [members, mem_stations]

/-! ## Bytes -/

theorem of2_be2 (x : BitVec 16) : of2 (x.extractLsb' 8 8) (x.extractLsb' 0 8) = x := by
  unfold of2
  ext i hi
  simp only [BitVec.getElem_append, BitVec.getElem_extractLsb']
  by_cases h : i < 8
  · simp [h, BitVec.getLsbD_eq_getElem, hi]
  · simp [h, show 8 + (i - 8) = i by omega, BitVec.getLsbD_eq_getElem, hi]

theorem of3_be3 (x : BitVec 24) : of3 (x.extractLsb' 16 8) (x.extractLsb' 8 8) (x.extractLsb' 0 8) = x := by
  unfold of3
  ext i hi
  simp only [BitVec.getElem_append, BitVec.getElem_extractLsb']
  by_cases h : i < 8
  · simp [h, BitVec.getLsbD_eq_getElem, hi]
  · by_cases h' : i - 8 < 8
    · simp [h, h', show 8 + (i - 8) = i by omega, BitVec.getLsbD_eq_getElem, hi]
    · simp [h, h', show 16 + (i - 8 - 8) = i by omega, BitVec.getLsbD_eq_getElem, hi]

theorem of4_be4 (x : BitVec 32) :
    of4 (x.extractLsb' 24 8) (x.extractLsb' 16 8) (x.extractLsb' 8 8) (x.extractLsb' 0 8) = x := by
  unfold of4
  ext i hi
  simp only [BitVec.getElem_append, BitVec.getElem_extractLsb']
  by_cases h : i < 8
  · simp [h, BitVec.getLsbD_eq_getElem, hi]
  · by_cases h' : i - 8 < 8
    · simp [h, h', show 8 + (i - 8) = i by omega, BitVec.getLsbD_eq_getElem, hi]
    · by_cases h'' : i - 8 - 8 < 8
      · simp [h, h', h'', show 16 + (i - 8 - 8) = i by omega, BitVec.getLsbD_eq_getElem, hi]
      · simp [h, h', h'', show 24 + (i - 8 - 8 - 8) = i by omega, BitVec.getLsbD_eq_getElem, hi]

/-! ## Time -/

@[simp] theorem tdiff_self (a : Time) : tdiff a a = 0 := by simp [tdiff]

theorem reached_self (a : Time) : reached a a = true := by simp [reached]

/-! ## The gates -/

/-- Every event of the part answers a next state. -/
theorem whenRunning_next (s : State) (act : State → State) :
    whenRunning s act = .next (if s.inReset then s else act s) := rfl

/-- While RESET is low nothing happens (R200). -/
theorem whenRunning_held {s : State} (h : s.inReset = true) (act : State → State) : whenRunning s act = .next s := by
  simp [whenRunning, h]

theorem onCause_acts {s : State} (h : s.inReset = false) {cause : State → Bool} (k : cause s = true)
    (act : State → State) : onCause s cause act = .next (act s) := by
  simp [onCause, whenRunning, h, k]

theorem onCause_idle {s : State} {cause : State → Bool} (k : cause s = false) (act : State → State) :
    onCause s cause act = .next s := by
  unfold onCause whenRunning; split <;> simp_all

/-- A command of the host at its command instant is judged and answered (R188). -/
theorem hostCommand_answers {s : State} {i : Instr} (h : s.inReset = false) (k : s.port.takes i = true)
    (judge : State → Answer) : hostCommand i s judge = .next (judge s).deliver := by
  simp [hostCommand, whenRunning, h, k]

/-- A command that is not the transaction's is ignored (R187). -/
theorem hostCommand_ignored {s : State} {i : Instr} (k : s.port.takes i = false) (judge : State → Answer) :
    hostCommand i s judge = .next s := by
  unfold hostCommand whenRunning; split <;> simp_all

/-- With no byte clocked in every host command can be the transaction's (R187). -/
theorem Port.takes_first {p : Port} {i : Instr} {bytes : List Byte} (h : p.ready = true) (k : p.buffer = [])
    (b : commandBytes i = some bytes) : p.takes i = true := by
  simp [Port.takes, h, k, b]

/-- A command whose command instant comes is one of an open transaction. -/
theorem Port.takes_ready {p : Port} {i : Instr} (h : p.takes i = true) : p.ready = true := by
  unfold Port.takes at h; simp only [Bool.and_eq_true] at h; exact h.1

/-! ## Updates of the port -/

@[simp] theorem Port.respond_state (p : Port) (x : Status) (bytes : List Byte) : (p.respond x bytes).state = .response := rfl
@[simp] theorem Port.respond_hdi (p : Port) (x : Status) (bytes : List Byte) : (p.respond x bytes).hdi = [] := rfl
@[simp] theorem Port.respond_buffer (p : Port) (x : Status) (bytes : List Byte) : (p.respond x bytes).buffer = [] := rfl
@[simp] theorem Port.respond_counted (p : Port) (x : Status) (bytes : List Byte) : (p.respond x bytes).counted = 0 := rfl
@[simp] theorem Port.respond_response (p : Port) (x : Status) (bytes : List Byte) : (p.respond x bytes).response = x.code :: bytes := rfl
@[simp] theorem Port.respond_latch (p : Port) (x : Status) (bytes : List Byte) : (p.respond x bytes).latch = p.latch := rfl
@[simp] theorem Port.respond_mask (p : Port) (x : Status) (bytes : List Byte) : (p.respond x bytes).mask = p.mask := rfl
@[simp] theorem Port.respond_details (p : Port) (x : Status) (bytes : List Byte) : (p.respond x bytes).details = p.details := rfl
@[simp] theorem Port.respond_marks (p : Port) (x : Status) (bytes : List Byte) : (p.respond x bytes).marks = p.marks := rfl
@[simp] theorem Port.respond_readEvents (p : Port) (x : Status) (bytes : List Byte) : (p.respond x bytes).readEvents = p.readEvents := rfl
@[simp] theorem Port.respond_softReset (p : Port) (x : Status) (bytes : List Byte) : (p.respond x bytes).softReset = p.softReset := rfl

@[simp] theorem Port.endTransaction_state (p : Port) : (p.endTransaction).state = .idle := rfl
@[simp] theorem Port.endTransaction_hdi (p : Port) : (p.endTransaction).hdi = [] := rfl
@[simp] theorem Port.endTransaction_buffer (p : Port) : (p.endTransaction).buffer = [] := rfl
@[simp] theorem Port.endTransaction_counted (p : Port) : (p.endTransaction).counted = 0 := rfl
@[simp] theorem Port.endTransaction_response (p : Port) : (p.endTransaction).response = [] := rfl
@[simp] theorem Port.endTransaction_latch (p : Port) : (p.endTransaction).latch = p.latch := rfl
@[simp] theorem Port.endTransaction_mask (p : Port) : (p.endTransaction).mask = p.mask := rfl
@[simp] theorem Port.endTransaction_details (p : Port) : (p.endTransaction).details = p.details := rfl
@[simp] theorem Port.endTransaction_marks (p : Port) : (p.endTransaction).marks = 0 := rfl
@[simp] theorem Port.endTransaction_readEvents (p : Port) : (p.endTransaction).readEvents = .none := rfl
@[simp] theorem Port.endTransaction_softReset (p : Port) : (p.endTransaction).softReset = false := rfl

@[simp] theorem Port.clockIn_state (p : Port) (x : Byte) : (p.clockIn x).state = .operands := rfl
@[simp] theorem Port.clockIn_hdi (p : Port) (x : Byte) : (p.clockIn x).hdi = p.hdi := rfl
@[simp] theorem Port.clockIn_buffer (p : Port) (x : Byte) : (p.clockIn x).buffer = (p.buffer ++ [x]).take Config.bufferDepth := rfl
@[simp] theorem Port.clockIn_counted (p : Port) (x : Byte) : (p.clockIn x).counted = p.counted + 1 := rfl
@[simp] theorem Port.clockIn_response (p : Port) (x : Byte) : (p.clockIn x).response = p.response := rfl
@[simp] theorem Port.clockIn_latch (p : Port) (x : Byte) : (p.clockIn x).latch = p.latch := rfl
@[simp] theorem Port.clockIn_mask (p : Port) (x : Byte) : (p.clockIn x).mask = p.mask := rfl
@[simp] theorem Port.clockIn_details (p : Port) (x : Byte) : (p.clockIn x).details = p.details := rfl
@[simp] theorem Port.clockIn_marks (p : Port) (x : Byte) : (p.clockIn x).marks = p.marks := rfl
@[simp] theorem Port.clockIn_readEvents (p : Port) (x : Byte) : (p.clockIn x).readEvents = p.readEvents := rfl
@[simp] theorem Port.clockIn_softReset (p : Port) (x : Byte) : (p.clockIn x).softReset = p.softReset := rfl

/-! ## The bytes of a transaction -/

theorem Port.bytes_length {p : Port} (h : p.buffer.length ≤ p.counted) : p.bytes.length = p.counted := by
  simp [Port.bytes]; omega

/-- A port with no byte held spells nothing yet (R187). -/
theorem Port.bytes_of_none {p : Port} (h : p.buffer = []) (k : p.counted = 0) : p.bytes = [] := by
  simp [Port.bytes, h, k]

/-- A microsecond moves nothing of the port but the wait for the next byte. -/
theorem Port.tick_moves (p : Port) : p.tick = { p with hdi := p.tick.hdi } := by
  unfold Port.tick; split <;> rfl

/-- With no byte being clocked in a microsecond moves nothing of the port. -/
theorem Port.tick_closed {p : Port} (h : p.ready = false) : p.tick = p := by
  simp [Port.tick, h]

theorem Answer.deliver_refuse (s : State) (st : Status) :
    (s.refuse st).deliver = s.setPort (s.port.respond st []) := rfl
theorem Answer.deliver_report (s : State) (bytes : List Byte) :
    (s.report bytes).deliver = s.setPort (s.port.respond .ok bytes) := rfl
theorem Answer.deliver_done (s : State) : s.done.deliver = s.setPort (s.port.respond .ok []) := rfl

end Sys2Proof.Machine
end

