-- ==== Sys2Proof/Laws/Exec.lean ====
section
/-! SUPPORT. What each command can do, said once: the judgement of every host command, the cause and the act of every event,
and the five ways an `exec` can come out.  Later proofs cite these and never unfold a meaning's gate. -/

namespace Sys2Proof.Machine

/-- The judgement of a host command; none for an event. -/
def judgeOf : Instr → Option (State → Answer)
  | .resetAssert => none
  | .resetRelease _ _ _ => none
  | .readStatus => some (fun s => s.report s.statusBytes)
  | .readEvents => some State.readEvents
  | .readEventsEnd => none
  | .setEventMask mask => some (State.setEventMask mask)
  | .softReset => some (fun s => (s.setPort { s.port with softReset := true }).done)
  | .softResetActs => none
  | .configure p => some (State.configure p)
  | .setCourse index length => some (State.setCourse index length)
  | .setPattern index steps => some (State.setPattern index steps)
  | .join => some State.join
  | .leave => some State.leave
  | .newRace => some State.newRace
  | .setOffer courses laps options => some (State.setOffer courses laps options)
  | .setReady => some State.setReady
  | .clearReady => some State.clearReady
  | .readLobby => some (fun s => s.report s.lobbyBytes)
  | .readCountdown => some (fun s => s.report s.countdownBytes)
  | .readClock => some (fun s => s.report s.clockBytes)
  | .readPeer station => some (State.readPeer station)
  | .freeze => some State.freeze
  | .thaw => some State.thaw
  | .clearFaults => some State.clearFaults
  | .postCar p => some (State.postCar p)
  | .readCars => some (fun s => s.report s.carsBytes)
  | .proxOn => some State.proxOn
  | .proxOff => some State.proxOff
  | .readProx => some (fun s => s.report s.proxBytes)
  | .readStandings start count => some (State.readStandings start count)
  | .readLine place pattern => some (State.readLine place pattern)
  | .unknownCommand _ => none
  | .truncated _ => none
  | .responseEndedEarly => none
  | .framePeriodExpiry => none
  | .lineActivity => none
  | .startMark => none
  | .lineIdle _ => none
  | .deferralSlot => none
  | .collision _ _ => none
  | .txSuccess _ => none
  | .windowExpiry => none
  | .debtPayment => none
  | .freezeTimerExpiry => none
  | .abortHoldExpiry => none
  | .sweepStep => none
  | .startInstant => none
  | .finishDeadline => none
  | .raceLimit => none
  | .transactionBegin => none
  | .transactionEnd => none

/-- The cause and the act of an event; none for a host command and for the two commands of the reset line. -/
def eventOf : Instr → Option ((State → Bool) × (State → State))
  | .resetAssert => none
  | .resetRelease _ _ _ => none
  | .readStatus => none
  | .readEvents => none
  | .readEventsEnd =>
    some (fun s => s.port.state == .response && s.port.readEvents.open, fun s => s.setPort s.port.endReadEvents)
  | .setEventMask _ => none
  | .softReset => none
  | .softResetActs => some (fun s => s.port.softReset, State.softReset)
  | .configure _ => none
  | .setCourse _ _ => none
  | .setPattern _ _ => none
  | .join => none
  | .leave => none
  | .newRace => none
  | .setOffer _ _ _ => none
  | .setReady => none
  | .clearReady => none
  | .readLobby => none
  | .readCountdown => none
  | .readClock => none
  | .readPeer _ => none
  | .freeze => none
  | .thaw => none
  | .clearFaults => none
  | .postCar _ => none
  | .readCars => none
  | .proxOn => none
  | .proxOff => none
  | .readProx => none
  | .readStandings _ _ => none
  | .readLine _ _ => none
  | .unknownCommand code =>
    some (fun s => s.port.takes (.unknownCommand code) && !namesCommand code, fun s => s.setPort s.port.discardRest)
  | .truncated clocks => some (fun s => s.port.ready, State.truncate clocks)
  | .responseEndedEarly => some (fun s => s.port.answered, fun s => s.raiseSelect)
  | .framePeriodExpiry => some (State.periodOver, State.periodExpiry)
  | .lineActivity => some (fun s => s.bus.line == .idle, fun s => s.setBus s.bus.startBit)
  | .startMark => some (fun _ => true, fun s => s.setBus (s.bus.mark s.now))
  | .lineIdle run => some (fun s => s.bus.mayIdle, fun s => s.goIdle run)
  | .deferralSlot => some (fun _ => true, State.countSlot)
  | .collision index echo => some (fun _ => true, fun s => s.collide index echo)
  | .txSuccess echo => some (fun _ => true, fun s => s.succeed echo)
  | .windowExpiry => some (State.windowOver, State.windowEvaluation)
  | .debtPayment => some (State.paymentDue, State.payMicrosecond)
  | .freezeTimerExpiry => some (State.freezeOver, fun s => s.endFreeze.signal .freezeExpired)
  | .abortHoldExpiry => some (State.holdOver, State.endHold)
  | .sweepStep => some (State.sweepDue, State.sweep)
  | .startInstant => some (State.startReached, State.start)
  | .finishDeadline => some (State.deadlineReached, State.checkRaceEnd)
  | .raceLimit => some (State.limitReached, State.checkRaceEnd)
  | .transactionBegin => some (fun s => s.port.state == .idle, fun s => s.setPort s.port.begin)
  | .transactionEnd => some (fun s => s.port.answered, State.raiseSelect)

variable {s t : State} {i : Instr}

/-- A host command passes the gate of the transaction (R187, R200). -/
theorem exec_host {judge : State → Answer} (h : judgeOf i = some judge) : exec i s = hostCommand i s judge := by
  cases i <;> simp only [judgeOf, Option.some.injEq, reduceCtorEq] at h <;> subst h <;> rfl

/-- An event passes the gate of its cause (R200). -/
theorem exec_event {cause : State → Bool} {act : State → State} (h : eventOf i = some (cause, act)) :
    exec i s = onCause s cause act := by
  cases i <;> simp only [eventOf, Option.some.injEq, Prod.mk.injEq, reduceCtorEq] at h <;> obtain ⟨rfl, rfl⟩ := h <;> rfl

/-- A host command at its command instant is judged and answered (R187, R188). -/
theorem exec_judged {judge : State → Answer} (h : judgeOf i = some judge) (k : s.hears i) :
    exec i s = .next (judge s).deliver :=
  (exec_host h).trans (hostCommand_answers k.1 k.2 _)

/-- A host command that is not the transaction's is ignored (R187, R188, R191). -/
theorem exec_ignored {judge : State → Answer} (h : judgeOf i = some judge) (k : s.port.takes i = false) :
    exec i s = .next s :=
  (exec_host h).trans (hostCommand_ignored k _)

/-- An event whose cause stands acts. -/
theorem exec_caused {cause : State → Bool} {act : State → State} (h : eventOf i = some (cause, act))
    (k : s.inReset = false) (c : cause s = true) : exec i s = .next (act s) :=
  (exec_event h).trans (onCause_acts k c _)

/-- Each command is one of the two of the reset line, a host command, or an event. -/
theorem command_kind (i : Instr) :
    i = .resetAssert ∨ (∃ station rate auto, i = .resetRelease station rate auto) ∨
      (∃ judge, judgeOf i = some judge) ∨ ∃ cause act, eventOf i = some (cause, act) := by
  cases i
  case resetAssert => exact .inl rfl
  case resetRelease a b c => exact .inr (.inl ⟨a, b, c, rfl⟩)
  all_goals first
    | exact .inr (.inr (.inl ⟨_, rfl⟩))
    | exact .inr (.inr (.inr ⟨_, _, rfl⟩))

/-- Every way an `exec` can come out: the reset line is driven or released, nothing happens, a host command is answered, or an
event acts. -/
theorem exec_cases (h : exec i s = .next t) :
    (i = .resetAssert ∧ t = s.hold) ∨
      (∃ station rate auto, i = .resetRelease station rate auto ∧
        t = s.release { station := station, rate := rate, auto := auto }) ∨
      t = s ∨
      (∃ judge, judgeOf i = some judge ∧ s.hears i ∧ t = (judge s).deliver) ∨
      (∃ cause act, eventOf i = some (cause, act) ∧ s.inReset = false ∧ cause s = true ∧ t = act s) := by
  rcases command_kind i with rfl | ⟨a, b, c, rfl⟩ | ⟨judge, k⟩ | ⟨cause, act, k⟩
  · exact .inl ⟨rfl, by cases h; rfl⟩
  · exact .inr (.inl ⟨a, b, c, rfl, by cases h; rfl⟩)
  · rw [exec_host k] at h
    by_cases r : s.inReset = true
    · rw [hostCommand, whenRunning_held r] at h
      cases h; exact .inr (.inr (.inl rfl))
    · by_cases p : s.port.takes i = true
      · rw [hostCommand_answers (by simpa using r) p] at h
        cases h; exact .inr (.inr (.inr (.inl ⟨judge, k, ⟨by simpa using r, p⟩, rfl⟩)))
      · rw [hostCommand_ignored (by simpa using p)] at h
        cases h; exact .inr (.inr (.inl rfl))
  · rw [exec_event k] at h
    by_cases c : cause s = true
    · by_cases r : s.inReset = true
      · rw [onCause, whenRunning_held r] at h
        cases h; exact .inr (.inr (.inl rfl))
      · rw [onCause_acts (by simpa using r) c] at h
        cases h; exact .inr (.inr (.inr (.inr ⟨cause, act, k, by simpa using r, c, rfl⟩)))
    · rw [onCause_idle (by simpa using c)] at h
      cases h; exact .inr (.inr (.inl rfl))

/-- Every command answers a next state: no meaning stops. -/
theorem exec_next (i : Instr) (s : State) : ∃ t, exec i s = .next t := by
  cases i <;> exact ⟨_, rfl⟩

/-- With no byte complete on HDI no event is chosen only where none is due (assumption 3). -/
theorem State.chosenEvent_none (b : s.port.byteDue = false) (k : s.chosenEvent = none) : s.dueEvents = [] := by
  cases hd : s.dueEvents with
  | nil => rfl
  | cons x xs =>
    unfold State.chosenEvent State.pick at k
    rw [List.getElem?_eq_none_iff, b] at k
    have : Config.eventOrder s.choices % (s.dueEvents.length + Bool.toNat false) <
        s.dueEvents.length + Bool.toNat false := Nat.mod_lt _ (by rw [hd]; exact Nat.succ_pos _)
    simp only [Bool.toNat_false, Nat.add_zero] at this k
    omega

/-- Every way a byte clocked in can come out: the bytes spell a command, whose command instant it is; or the state is
OPERANDS with the byte counted; or no byte was to come (R187, R188). -/
theorem clockByte_cases (h : s.clockByte = .next t) :
    (∃ x rest c, s.port.hdi = x :: rest ∧ decodeCommand (s.port.bytes ++ [x.value]) = some c ∧
        exec c (s.setPort { s.port with hdi := rest }) = .next t) ∨
      (∃ x rest, s.port.hdi = x :: rest ∧ decodeCommand (s.port.bytes ++ [x.value]) = none ∧
        t = s.setPort (Port.clockIn { s.port with hdi := rest } x.value)) ∨
      (s.port.hdi = [] ∧ t = s) := by
  unfold State.clockByte at h
  split at h
  case h_1 e => cases h; exact .inr (.inr ⟨e, rfl⟩)
  case h_2 x rest e =>
    dsimp only at h
    split at h
    case h_1 c d => exact .inl ⟨x, rest, c, e, d, h⟩
    case h_2 d => cases h; exact .inr (.inl ⟨x, rest, e, d, rfl⟩)

/-- Every way a step can come out: a command is taken from the queue, an own event is taken, a byte is clocked in, 1 µs of the
debt is paid, nothing moves while RESET is low, or one microsecond of T passes (assumptions 6 and 9). -/
theorem step_cases (h : step s = .next t) :
    (∃ c rest, s.pending = c :: rest ∧ exec c (s.setPending rest) = .next t) ∨
      (s.pending = [] ∧ s.inReset = false ∧ ∃ c ∈ s.dueEvents, exec c s.picked = .next t) ∨
      (s.pending = [] ∧ s.inReset = false ∧ s.port.byteDue = true ∧ s.picked.clockByte = .next t) ∨
      (s.pending = [] ∧ s.inReset = false ∧ s.dueEvents = [] ∧ s.port.byteDue = false ∧
        exec .debtPayment s = .next t) ∨
      (s.pending = [] ∧ s.inReset = true ∧ t = s) ∨
      (s.pending = [] ∧ s.inReset = false ∧ s.dueEvents = [] ∧ s.port.byteDue = false ∧ s.paymentDue = false ∧
        t = s.microsecond) := by
  unfold step at h
  split at h
  case h_2 c rest e => exact .inl ⟨c, rest, e, h⟩
  case h_1 e =>
    unfold idle at h
    split at h
    case isTrue r => cases h; exact .inr (.inr (.inr (.inr (.inl ⟨e, r, rfl⟩))))
    case isFalse r =>
      have r' : s.inReset = false := by simpa using r
      split at h
      case h_1 c k => exact .inr (.inl ⟨e, r', c, List.mem_of_getElem? k, h⟩)
      case h_2 k =>
        split at h
        case isTrue b => exact .inr (.inr (.inl ⟨e, r', b, h⟩))
        case isFalse b =>
          have b' : s.port.byteDue = false := by simpa using b
          have d := State.chosenEvent_none b' k
          split at h
          case isTrue => exact .inr (.inr (.inr (.inl ⟨e, r', d, b', h⟩)))
          case isFalse p => cases h; exact .inr (.inr (.inr (.inr (.inr ⟨e, r', d, b', by simpa using p, rfl⟩))))

end Sys2Proof.Machine
end

