-- ==== Sys2Proof/Laws/Countdown.lean ====
section
/-! SUPPORT. What each stage of a re-evaluation can do, said once: the lobby set and the rule, entry to PROPOSING, entry to
ARMED, and what follows it (R82, R92, R97, R98, R102). -/

namespace Sys2Proof.Machine

variable {s t : State}

/-! ## The lobby set and the rule -/

/-- A lobby set that stands as R81 gives it is not moved by a recomputation. -/
theorem State.recomputeLobby_of (h : s.session.lobbySet = setOf s.gathers) : s.recomputeLobby = s := by
  simp only [State.recomputeLobby, ← h]; rfl

/-- Who gathers hangs on the straps, the Link Monitor and the Peer Table alone (R81). -/
theorem State.gathers_of (h : t.straps = s.straps) (k : t.link = s.link) (e : t.table = s.table) :
    t.gathers = s.gathers := by
  funext st; simp [State.gathers, State.own, State.live, h, k, e]

/-- Resolving the rule moves the rule, the cleardown mark and the port alone (R83 to R86). -/
theorem State.resolveRule_moves : s.resolveRule =
    (s.setSession { s.session with
      rule := ruleOf s.commonOffer, cleardownMark := s.resolveRule.session.cleardownMark }).setPort
      s.resolveRule.port := by
  unfold State.resolveRule; dsimp only; repeat' split
  all_goals rfl

/-- The cleardown mark that a resolution leaves: the rule found NONE with two members or more (R86). -/
theorem State.resolveRule_mark : s.resolveRule.session.cleardownMark =
    ((ruleOf s.commonOffer).isNone && decide (2 ≤ (members s.session.lobbySet).length)) := rfl

/-- The common masks hang on the straps, the lobby set, the effective offer and the Peer Table alone (R83). -/
theorem State.commonOffer_of (h : t.straps = s.straps) (k : t.session.lobbySet = s.session.lobbySet)
    (e : t.session.effective = s.session.effective) (l : t.table = s.table) : t.commonOffer = s.commonOffer := by
  have : t.offerOf = s.offerOf := by funext st; unfold State.offerOf State.own; rw [h, e, l]
  simp only [State.commonOffer, k, this]

/-! ## Entry to PROPOSING and to ARMED -/

/-- Recording one proposal moves the proposals alone (R93). -/
theorem State.recordProposal_moves (st : Station) :
    ∃ q, s.recordProposal st = s.setSession { s.session with proposals := q } := by
  unfold State.recordProposal; split <;> exact ⟨_, rfl⟩

/-- Recording the proposals of several stations moves the proposals alone (R93). -/
theorem foldl_recordProposal_moves (l : List Station) :
    ∀ s : State, ∃ q, l.foldl State.recordProposal s = s.setSession { s.session with proposals := q } := by
  induction l with
  | nil => exact fun s => ⟨_, rfl⟩
  | cons a l ih =>
    intro s
    obtain ⟨q, h⟩ := State.recordProposal_moves (s := s) a
    obtain ⟨q', h'⟩ := ih (s.recordProposal a)
    exact ⟨q', by rw [List.foldl_cons, h', h]; rfl⟩

/-- Entry to PROPOSING moves the phase, the roster, the held mark and the proposals alone (R92, R93). -/
theorem State.enterProposing_moves : ∃ q, s.enterProposing = s.setSession { s.session with
    phase := .proposing, roster := some s.session.lobbySet, held := true, proposals := q } := by
  obtain ⟨q, h⟩ := foldl_recordProposal_moves stations (s.setSession (Session.putProposal { s.session with
    phase := .proposing, roster := some s.session.lobbySet, held := true, proposals := Vector.replicate 16 none } s.own
      (some (proposalAt s.now s.store.startLead))))
  exact ⟨q, h⟩

/-- Condition B holds on in ARMED where it held in PROPOSING: item 2 asks no more there, and no other item reads what entry
to ARMED moves (R94, R95, R97). -/
theorem State.enterArmed_breach (h : s.breach = none) (p : s.session.phase = .proposing) : s.enterArmed.breach = none := by
  have live : ∀ st, s.enterArmed.live st = s.live st := fun _ => rfl
  have agrees : ∀ m st, s.memberAgrees m st = true → s.enterArmed.memberAgrees m st = true := by
    intro m st a
    have b : s.countsAsBeacon st = true := by
      simp only [State.memberAgrees, Bool.and_eq_true] at a; exact a.1.2
    have c : s.enterArmed.countsAsBeacon st = true := by
      simp only [State.countsAsBeacon, p, Bool.or_eq_true, Bool.and_eq_true, show (Phase.proposing == Phase.armed) = false
        from rfl, Bool.false_eq_true, false_and, or_false] at b
      simp only [State.countsAsBeacon, Bool.or_eq_true]
      exact .inl b
    simp only [State.memberAgrees, b, c, live, Bool.and_true] at a ⊢
    exact a
  have failing : s.failingMember = none → s.enterArmed.failingMember = none := by
    intro f
    simp only [State.failingMember, List.find?_eq_none, Bool.not_eq_true, Bool.not_eq_false'] at f ⊢
    exact fun x m => agrees _ _ (f x m)
  unfold State.breach at h ⊢
  split at h
  case isTrue => cases h
  case isFalse c =>
    rw [if_neg (show ¬ s.enterArmed.clock.state ≠ .locked from c)]
    cases f : s.failingMember with
    | some st => rw [f] at h; cases h
    | none => rw [f] at h; rw [failing f]; exact h

/-- After entry to ARMED with Condition B holding the part waits in ARMED, or starts at once where C has reached the agreed
start (R98, R102). -/
theorem State.afterArmed_cases {start : Time} (h : s.enterArmed.session.agreed = some start)
    (b : s.enterArmed.breach = none) (l : s.session.lobbySet = setOf s.gathers) :
    s.enterArmed.startReached = decide (0 ≤ tdiff s.now start) ∧
      s.enterArmed.afterArmed = if 0 ≤ tdiff s.now start then s.enterArmed.start else s.enterArmed := by
  have r : s.enterArmed.startReached = decide (0 ≤ tdiff s.now start) := by
    simp only [State.startReached, State.passed, h, reached]; rfl
  have e : s.enterArmed.evaluateArmed = s.enterArmed := by
    simp only [State.evaluateArmed, State.recomputeLobby_of (s := s.enterArmed) l, b]
  refine ⟨r, ?_⟩
  simp only [State.afterArmed, r, e, decide_eq_true_eq]

end Sys2Proof.Machine
end

