-- ==== Sys2Proof/Laws/Frames.lean ====
section
/-! SUPPORT. What each shared operation leaves alone, said once for each: every later frame is one of these or a chain of
them. -/

namespace Sys2Proof.Machine

/-! ## The event latch -/

/-- A port later in one step of a block: flags and marks may have been added, details changed; nothing else moved. -/
structure Port.Grows (p q : Port) : Prop where
  state : q.state = p.state
  hdi : q.hdi = p.hdi
  buffer : q.buffer = p.buffer
  counted : q.counted = p.counted
  response : q.response = p.response
  mask : q.mask = p.mask
  readEvents : q.readEvents = p.readEvents
  softReset : q.softReset = p.softReset
  latch : p.latch &&& q.latch = p.latch
  marks : p.marks &&& q.marks = p.marks

theorem Port.Grows.rfl {p : Port} : p.Grows p := by constructor <;> simp

theorem and_le_trans {w : Nat} {a b c : BitVec w} (h : a &&& b = a) (k : b &&& c = b) : a &&& c = a := by
  rw [← h, BitVec.and_assoc, k]

theorem and_or_self {w : Nat} (a b : BitVec w) : a &&& (a ||| b) = a := by
  ext i hi
  simp
  exact Or.inl

theorem Port.Grows.trans {p q r : Port} (h : p.Grows q) (k : q.Grows r) : p.Grows r :=
  ⟨k.state.trans h.state, k.hdi.trans h.hdi, k.buffer.trans h.buffer, k.counted.trans h.counted,
    k.response.trans h.response, k.mask.trans h.mask, k.readEvents.trans h.readEvents, k.softReset.trans h.softReset,
    and_le_trans h.latch k.latch, and_le_trans h.marks k.marks⟩

/-- One occurrence only adds to the latch and the marks (R195). -/
theorem Port.occur_grows (p : Port) (e : Event) (st : Option Station) : p.Grows (p.occur e st) := by
  constructor <;> simp [Port.occur, and_or_self]
  split <;> simp [and_or_self]

/-! ## Three frames -/

/-- The step from `s` to `t` leaves the queue, the choices, the reset line, the straps, the store, the Bus Interface and the
patterns alone, and only adds to the event latch. -/
structure State.Keeps (s t : State) : Prop where
  pending : t.pending = s.pending
  choices : t.choices = s.choices
  inReset : t.inReset = s.inReset
  straps : t.straps = s.straps
  store : t.store = s.store
  bus : t.bus = s.bus
  patterns : t.patterns = s.patterns
  port : s.port.Grows t.port

/-- Besides, the Link Monitor and the Race Clock are left alone. -/
structure State.Applies (s t : State) : Prop extends State.Keeps s t where
  link : t.link = s.link
  clock : t.clock = s.clock

/-- Besides, the Peer Table and the Receive Queue are left alone. -/
structure State.Quiet (s t : State) : Prop extends State.Applies s t where
  table : t.table = s.table

variable {s t u : State}

theorem State.Keeps.rfl : s.Keeps s := ⟨.refl _, .refl _, .refl _, .refl _, .refl _, .refl _, .refl _, Port.Grows.rfl⟩
theorem State.Applies.rfl : s.Applies s := ⟨State.Keeps.rfl, .refl _, .refl _⟩
theorem State.Quiet.rfl : s.Quiet s := ⟨State.Applies.rfl, .refl _⟩

theorem State.Keeps.trans (h : s.Keeps t) (k : t.Keeps u) : s.Keeps u :=
  ⟨k.pending.trans h.pending, k.choices.trans h.choices, k.inReset.trans h.inReset, k.straps.trans h.straps,
    k.store.trans h.store, k.bus.trans h.bus, k.patterns.trans h.patterns, h.port.trans k.port⟩

theorem State.Applies.trans (h : s.Applies t) (k : t.Applies u) : s.Applies u :=
  ⟨h.toKeeps.trans k.toKeeps, k.link.trans h.link, k.clock.trans h.clock⟩

theorem State.Quiet.trans (h : s.Quiet t) (k : t.Quiet u) : s.Quiet u :=
  ⟨h.toApplies.trans k.toApplies, k.table.trans h.table⟩

/-! ## Updates -/

theorem State.setSession_quiet (x : Session) : s.Quiet (s.setSession x) :=
  ⟨⟨⟨.refl _, .refl _, .refl _, .refl _, .refl _, .refl _, .refl _, Port.Grows.rfl⟩, .refl _, .refl _⟩, .refl _⟩
theorem State.setMotion_quiet (x : Motion) : s.Quiet (s.setMotion x) :=
  ⟨⟨⟨.refl _, .refl _, .refl _, .refl _, .refl _, .refl _, .refl _, Port.Grows.rfl⟩, .refl _, .refl _⟩, .refl _⟩
theorem State.setStandings_quiet (x : Standings) : s.Quiet (s.setStandings x) :=
  ⟨⟨⟨.refl _, .refl _, .refl _, .refl _, .refl _, .refl _, .refl _, Port.Grows.rfl⟩, .refl _, .refl _⟩, .refl _⟩
theorem State.setProx_quiet (x : Prox) : s.Quiet (s.setProx x) :=
  ⟨⟨⟨.refl _, .refl _, .refl _, .refl _, .refl _, .refl _, .refl _, Port.Grows.rfl⟩, .refl _, .refl _⟩, .refl _⟩
theorem State.setTable_applies (x : Table) : s.Applies (s.setTable x) :=
  ⟨⟨.refl _, .refl _, .refl _, .refl _, .refl _, .refl _, .refl _, Port.Grows.rfl⟩, .refl _, .refl _⟩
theorem State.setLink_keeps (x : Link) : s.Keeps (s.setLink x) :=
  ⟨.refl _, .refl _, .refl _, .refl _, .refl _, .refl _, .refl _, Port.Grows.rfl⟩
theorem State.setClock_keeps (x : Clock) : s.Keeps (s.setClock x) :=
  ⟨.refl _, .refl _, .refl _, .refl _, .refl _, .refl _, .refl _, Port.Grows.rfl⟩

theorem State.signal_quiet (e : Event) : s.Quiet (s.signal e) :=
  ⟨⟨⟨.refl _, .refl _, .refl _, .refl _, .refl _, .refl _, .refl _, Port.occur_grows _ _ _⟩, .refl _, .refl _⟩, .refl _⟩
theorem State.signalAt_quiet (e : Event) (st : Station) : s.Quiet (s.signalAt e st) :=
  ⟨⟨⟨.refl _, .refl _, .refl _, .refl _, .refl _, .refl _, .refl _, Port.occur_grows _ _ _⟩, .refl _, .refl _⟩, .refl _⟩

/-- A fold of operations that are each quiet is quiet. -/
theorem foldl_quiet {α : Type} (f : State → α → State) (h : ∀ s a, State.Quiet s (f s a)) (l : List α) :
    ∀ s : State, s.Quiet (l.foldl f s) := by
  induction l with
  | nil => exact fun _ => State.Quiet.rfl
  | cons a l ih => exact fun s => (h s a).trans (ih (f s a))

/-- A fold of operations that each keep keeps. -/
theorem foldl_keeps {α : Type} (f : State → α → State) (h : ∀ s a, State.Keeps s (f s a)) (l : List α) :
    ∀ s : State, s.Keeps (l.foldl f s) := by
  induction l with
  | nil => exact fun _ => State.Keeps.rfl
  | cons a l ih => exact fun s => (h s a).trans (ih (f s a))

/-! ## Lobby and countdown -/

theorem State.recomputeLobby_quiet : s.Quiet s.recomputeLobby := State.setSession_quiet _

theorem State.resolveRule_quiet : s.Quiet s.resolveRule := by
  unfold State.resolveRule
  refine State.Quiet.trans ?_ (State.setSession_quiet _)
  split
  · refine State.Quiet.trans ?_ (State.signal_quiet _)
    split
    · exact State.Quiet.rfl
    · exact State.signal_quiet _
  · split
    · exact State.Quiet.rfl
    · exact State.signal_quiet _

theorem State.abort_quiet (cause : AbortCause) (st : Option Station) : s.Quiet (s.abort cause st) :=
  ((((State.setSession_quiet _).trans (State.setMotion_quiet _)).trans (State.signal_quiet _)).trans
    State.recomputeLobby_quiet).trans State.resolveRule_quiet

theorem State.raceOver_quiet (cause : EndCause) : s.Quiet (s.raceOver cause) :=
  (((((State.setStandings_quiet _).trans (State.setStandings_quiet _)).trans (State.setSession_quiet _)).trans
    (State.setProx_quiet _)).trans (State.signal_quiet _)).trans State.recomputeLobby_quiet

theorem State.start_quiet : s.Quiet s.start :=
  ((((State.setStandings_quiet _).trans (State.setSession_quiet _)).trans
    (State.setProx_quiet _)).trans (State.signal_quiet _)).trans State.recomputeLobby_quiet

theorem State.recordProposal_quiet (st : Station) : s.Quiet (s.recordProposal st) := by
  unfold State.recordProposal
  split
  · exact State.setSession_quiet _
  · exact State.Quiet.rfl

theorem State.enterProposing_quiet : s.Quiet s.enterProposing :=
  (State.setSession_quiet _).trans (foldl_quiet _ (fun _ st => State.recordProposal_quiet st) _ _)

theorem State.enterArmed_quiet : s.Quiet s.enterArmed :=
  ((State.setSession_quiet _).trans (State.setMotion_quiet _)).trans (State.signal_quiet _)

theorem State.evaluateArmed_quiet : s.Quiet s.evaluateArmed := by
  unfold State.evaluateArmed
  dsimp only
  split
  · exact State.recomputeLobby_quiet.trans (State.abort_quiet _ _)
  · exact State.recomputeLobby_quiet

theorem State.afterArmed_quiet : s.Quiet s.afterArmed := by
  unfold State.afterArmed
  split
  · exact State.start_quiet
  · exact State.evaluateArmed_quiet

theorem State.evaluateProposing_quiet : s.Quiet s.evaluateProposing := by
  unfold State.evaluateProposing
  dsimp only
  split
  · exact State.recomputeLobby_quiet.trans (State.abort_quiet _ _)
  · split
    · exact (State.recomputeLobby_quiet.trans State.enterArmed_quiet).trans State.afterArmed_quiet
    · exact State.recomputeLobby_quiet

theorem State.evaluateLobby_quiet : s.Quiet s.evaluateLobby := by
  unfold State.evaluateLobby
  dsimp only
  split
  · exact ((State.recomputeLobby_quiet.trans State.resolveRule_quiet).trans State.enterProposing_quiet).trans
      State.evaluateProposing_quiet
  · exact State.recomputeLobby_quiet.trans State.resolveRule_quiet

/-- A re-evaluation touches the session, the own record, the standings, the sweep and the event latch alone (R82). -/
theorem State.reevaluate_quiet : s.Quiet s.reevaluate := by
  unfold State.reevaluate
  split
  · exact State.evaluateLobby_quiet
  · exact State.evaluateProposing_quiet
  · exact State.evaluateArmed_quiet
  all_goals exact State.recomputeLobby_quiet

theorem State.sessionToldBeacon_quiet (st : Station) : s.Quiet (s.sessionToldBeacon st) := by
  unfold State.sessionToldBeacon
  split
  all_goals first
    | exact (State.recordProposal_quiet _).trans State.reevaluate_quiet
    | exact State.reevaluate_quiet

/-! ## The race -/

theorem State.putStarter_quiet (st : Station) (r : Starter) : s.Quiet (s.putStarter st r) := State.setStandings_quiet _

theorem State.statusChanged_quiet : s.Quiet s.statusChanged := by
  unfold State.statusChanged
  split
  · exact State.raceOver_quiet _
  · exact State.Quiet.rfl

theorem State.checkRaceEnd_quiet : s.Quiet s.checkRaceEnd := by
  unfold State.checkRaceEnd
  split
  · split
    · exact State.raceOver_quiet _
    · exact State.Quiet.rfl
  · exact State.Quiet.rfl

theorem State.offerClaim_quiet (st : Station) (finish : Time) (tag : Byte) : s.Quiet (s.offerClaim st finish tag) := by
  unfold State.offerClaim
  split
  · dsimp only
    refine State.Quiet.trans ?_ State.statusChanged_quiet
    refine State.Quiet.trans ?_ (State.setSession_quiet _)
    split
    · exact State.putStarter_quiet _ _
    · exact (State.putStarter_quiet _ _).trans (State.signalAt_quiet _ _)
  · exact State.Quiet.rfl

theorem State.starterLost_quiet (st : Station) : s.Quiet (s.starterLost st) := by
  unfold State.starterLost
  split
  · split
    · exact State.putStarter_quiet _ _
    · exact State.Quiet.rfl
  · exact State.Quiet.rfl

theorem State.starterBack_quiet (st : Station) : s.Quiet (s.starterBack st) := by
  unfold State.starterBack
  split
  · split
    · exact State.putStarter_quiet _ _
    · exact State.Quiet.rfl
  · exact State.Quiet.rfl

theorem State.dnfCheckOne_quiet (st : Station) : s.Quiet (s.dnfCheckOne st) := by
  unfold State.dnfCheckOne
  split
  · split
    · exact (State.putStarter_quiet _ _).trans State.statusChanged_quiet
    · exact State.Quiet.rfl
  · exact State.Quiet.rfl

theorem State.dnfCheck_quiet : s.Quiet s.dnfCheck := foldl_quiet _ (fun _ st => State.dnfCheckOne_quiet st) _ _

theorem State.standingsTold_quiet (f : Frame) : s.Quiet (s.standingsTold f) := by
  unfold State.standingsTold
  split
  · exact State.Quiet.rfl
  · split
    · split
      · exact (State.putStarter_quiet _ _).trans State.statusChanged_quiet
      · split
        · exact State.putStarter_quiet _ _
        · exact State.Quiet.rfl
    · exact State.Quiet.rfl

/-! ## Frames applied -/

theorem State.putEntry_applies (st : Station) (x : Entry) : s.Applies (s.putEntry st x) := State.setTable_applies _

theorem State.applyBeacon_applies (f : Frame) (b : Beacon) : s.Applies (s.applyBeacon f b) :=
  ((State.putEntry_applies _ _).trans (State.standingsTold_quiet _).toApplies).trans
    (State.sessionToldBeacon_quiet _).toApplies

theorem State.offerFrom_quiet (f : Frame) (c : CarRecord) : s.Quiet (s.offerFrom f c) := by
  unfold State.offerFrom
  split
  · exact State.Quiet.rfl
  · exact State.offerClaim_quiet _ _ _

theorem State.applyCar_applies (f : Frame) (c : CarRecord) (ta : Time) : s.Applies (s.applyCar f c ta) :=
  (((State.putEntry_applies _ _).trans (State.offerFrom_quiet _ _).toApplies).trans
    (State.standingsTold_quiet _).toApplies).trans State.reevaluate_quiet.toApplies

theorem State.applyFrame_applies (f : Frame) (ta : Time) : s.Applies (s.applyFrame f ta) := by
  unfold State.applyFrame
  split
  · exact State.applyBeacon_applies _ _
  · exact State.applyCar_applies _ _ _

theorem drainList_applies (ta : Time) (l : List Frame) : ∀ s : State, s.Applies (drainList ta l s) := by
  induction l with
  | nil => exact fun _ => State.Applies.rfl
  | cons f fs ih => exact fun s => ((State.setTable_applies _).trans (State.applyFrame_applies f ta)).trans (ih _)

theorem State.drain_applies (ta : Time) : s.Applies (s.drain ta) := drainList_applies ta _ _

theorem State.enqueue_applies (f : Frame) : s.Applies (s.enqueue f) := by
  unfold State.enqueue
  split
  · exact State.setTable_applies _
  · refine State.Applies.trans (t := s.makeRoom) ?_ ?_
    · unfold State.makeRoom
      split
      · exact State.Applies.rfl
      · split
        · exact (State.setTable_applies _).trans (State.signalAt_quiet _ _).toApplies
        · exact State.Applies.rfl
    · unfold State.joinTail
      dsimp only
      split
      · exact (State.setTable_applies _).trans (State.signal_quiet _).toApplies
      · exact State.setTable_applies _

/-- A frame received leaves the link, the clock and everything outside the race picture alone (R57, R60). -/
theorem State.receive_applies (f : Frame) : s.Applies (s.receive f) := by
  unfold State.receive
  dsimp only
  split
  · exact State.enqueue_applies f
  · exact (State.enqueue_applies f).trans (State.drain_applies _)

theorem State.endFreeze_applies : s.Applies s.endFreeze := by
  unfold State.endFreeze
  split
  · exact State.Applies.rfl
  · exact ((State.drain_applies _).trans (State.setTable_applies _)).trans (State.setMotion_quiet _).toApplies

theorem State.dropCars_applies : s.Applies s.dropCars := State.setTable_applies _

theorem State.clearTable_applies : s.Applies s.clearTable := State.endFreeze_applies.trans State.dropCars_applies

theorem State.emptyEntry_applies (st : Station) : s.Applies (s.emptyEntry st) :=
  (State.putEntry_applies _ _).trans State.reevaluate_quiet.toApplies

/-! ## Receptions and window expiries -/

theorem State.putSender_keeps (st : Station) (x : Sender) : s.Keeps (s.putSender st x) := State.setLink_keeps _

theorem State.handOn_keeps (f : Frame) (stamp capture : Time) : s.Keeps (s.handOn f stamp capture) := by
  unfold State.handOn
  split
  · exact (State.signalAt_quiet _ _).toKeeps
  · exact (State.putSender_keeps _ _).trans (State.receive_applies _).toKeeps

/-- The judgement of one sender leaves the clock alone besides. -/
structure State.Judges (s t : State) : Prop extends State.Keeps s t where
  clock : t.clock = s.clock
  queue : t.table.queue = s.table.queue
  freeze : t.table.freeze = s.table.freeze

theorem State.Judges.rfl : s.Judges s := ⟨State.Keeps.rfl, .refl _, .refl _, .refl _⟩
theorem State.Judges.trans (h : s.Judges t) (k : t.Judges u) : s.Judges u :=
  ⟨h.toKeeps.trans k.toKeeps, k.clock.trans h.clock, k.queue.trans h.queue, k.freeze.trans h.freeze⟩
theorem State.Quiet.judges (h : s.Quiet t) : s.Judges t :=
  ⟨h.toKeeps, h.clock, by rw [h.table], by rw [h.table]⟩
theorem State.putSender_judges (st : Station) (x : Sender) : s.Judges (s.putSender st x) :=
  ⟨State.putSender_keeps _ _, .refl _, .refl _, .refl _⟩
theorem State.putEntry_judges (st : Station) (x : Entry) : s.Judges (s.putEntry st x) :=
  ⟨(State.putEntry_applies _ _).toKeeps, .refl _, .refl _, .refl _⟩
theorem State.emptyEntry_judges (st : Station) : s.Judges (s.emptyEntry st) :=
  (State.putEntry_judges _ _).trans State.reevaluate_quiet.judges

theorem State.judgeAcquiring_judges (st : Station) (x : Sender) : s.Judges (s.judgeAcquiring st x) := by
  unfold State.judgeAcquiring
  split
  · exact ((State.putSender_judges _ _).trans (State.signalAt_quiet _ _).judges).trans State.reevaluate_quiet.judges
  · split
    · exact State.putSender_judges _ _
    · exact State.Judges.rfl

theorem State.judgePresent_judges (st : Station) (x : Sender) : s.Judges (s.judgePresent st x) := by
  unfold State.judgePresent
  split
  · exact State.putSender_judges _ _
  · exact State.Judges.rfl

theorem State.judgeFading_judges (st : Station) (x : Sender) : s.Judges (s.judgeFading st x) := by
  unfold State.judgeFading
  split
  · exact State.putSender_judges _ _
  · split
    · exact State.Judges.rfl
    · dsimp only
      split
      · exact (((State.putSender_judges _ _).trans (State.signalAt_quiet _ _).judges).trans
          (State.starterLost_quiet _).judges).trans State.reevaluate_quiet.judges
      · exact State.putSender_judges _ _

theorem State.judgeLost_judges (phase : Phase) (st : Station) (x : Sender) : s.Judges (s.judgeLost phase st x) := by
  unfold State.judgeLost
  split
  · exact (((State.putSender_judges _ _).trans (State.signalAt_quiet _ _).judges).trans
      (State.starterBack_quiet _).judges).trans State.reevaluate_quiet.judges
  · split
    · split
      · exact (State.putSender_judges _ _).trans (State.emptyEntry_judges _)
      · exact State.putSender_judges _ _
    · exact State.Judges.rfl

theorem State.judgePresence_judges (phase : Phase) (st : Station) : s.Judges (s.judgePresence phase st) := by
  unfold State.judgePresence
  dsimp only
  split
  · exact State.Judges.rfl
  · exact State.judgeAcquiring_judges _ _
  · exact State.judgePresent_judges _ _
  · exact State.judgeFading_judges _ _
  · exact State.judgeLost_judges _ _ _

theorem State.judgeChatter_judges (st : Station) : s.Judges (s.judgeChatter st) := by
  unfold State.judgeChatter
  dsimp only
  split
  · exact (State.putSender_judges _ _).trans (State.signalAt_quiet _ _).judges
  · exact State.Judges.rfl

theorem State.judgeSender_judges (phase : Phase) (st : Station) : s.Judges (State.judgeSender phase s st) :=
  (State.judgePresence_judges _ _).trans (State.judgeChatter_judges _)

theorem State.judgeSenders_judges (phase : Phase) : s.Judges (s.judgeSenders phase) := by
  have h : ∀ (l : List Station) (s : State), s.Judges (l.foldl (State.judgeSender phase) s) := by
    intro l
    induction l with
    | nil => exact fun _ => State.Judges.rfl
    | cons a l ih => exact fun s => (State.judgeSender_judges _ _).trans (ih _)
  exact h _ _

theorem State.setClockState_keeps (x : ClockState) : s.Keeps (s.setClockState x) := by
  unfold State.setClockState
  split
  · exact State.Keeps.rfl
  · exact ((State.setClock_keeps _).trans (State.signal_quiet _).toKeeps).trans State.reevaluate_quiet.toKeeps

theorem State.setClockState_link (x : ClockState) : (s.setClockState x).link = s.link := by
  unfold State.setClockState
  split
  · rfl
  · rw [State.reevaluate_quiet.link]; rfl

theorem State.setClockState_table (x : ClockState) : (s.setClockState x).table = s.table := by
  unfold State.setClockState
  split
  · rfl
  · rw [State.reevaluate_quiet.table]; rfl

/-- A new clock state leaves T, k, the debt and the payment count alone (R42). -/
theorem State.setClockState_clock (x : ClockState) : (s.setClockState x).clock = { s.clock with state := x } := by
  unfold State.setClockState
  split
  · next h => rw [← h]
  · rw [State.reevaluate_quiet.clock]; rfl

/-- A steering evaluation moves the clock, what a re-evaluation moves, and nothing else (R43). -/
theorem State.steer_keeps (phase : Phase) (samples : List Int) : s.Keeps (s.steer phase samples) := by
  unfold State.steer State.applyTarget
  dsimp only
  split
  · exact State.Keeps.rfl
  · split
    · exact State.setClockState_keeps _
    · split
      · exact (State.setClockState_keeps _).trans (State.setClock_keeps _)
      · exact (State.setClockState_keeps _).trans (State.setClock_keeps _)

theorem State.steer_link (phase : Phase) (samples : List Int) : (s.steer phase samples).link = s.link := by
  unfold State.steer State.applyTarget
  dsimp only
  split
  · rfl
  · split
    · exact State.setClockState_link _
    · split
      · rw [State.setClock_link, State.setClockState_link]
      · rw [State.setClock_link, State.setClockState_link]

theorem State.steer_table (phase : Phase) (samples : List Int) : (s.steer phase samples).table = s.table := by
  unfold State.steer State.applyTarget
  dsimp only
  split
  · rfl
  · split
    · exact State.setClockState_table _
    · split
      · rw [State.setClock_table, State.setClockState_table]
      · rw [State.setClock_table, State.setClockState_table]

theorem State.dnfCheckAt_quiet (place here : Nat) : s.Quiet (s.dnfCheckAt place here) := by
  unfold State.dnfCheckAt
  split
  · exact State.dnfCheck_quiet
  · exact State.Quiet.rfl

theorem State.handOff_keeps (phase : Phase) : s.Keeps (s.handOff phase) :=
  (State.setLink_keeps _).trans (State.steer_keeps _ _)

/-- After the hand-off every count is 0, every sample is empty and the next window has begun (R26). -/
theorem State.handOff_link (phase : Phase) : (s.handOff phase).link = s.link.newWindow s.store.windowLength := by
  unfold State.handOff
  rw [State.steer_link, State.setLink_link]

/-- The whole work of a window expiry (R26, R43, R159). -/
theorem State.windowEvaluation_keeps : s.picked.Keeps s.windowEvaluation := by
  unfold State.windowEvaluation
  dsimp only
  refine State.Keeps.trans ?_ (State.dnfCheckAt_quiet _ _).toKeeps
  refine State.Keeps.trans ?_ (State.handOff_keeps _)
  refine State.Keeps.trans ?_ (State.dnfCheckAt_quiet _ _).toKeeps
  exact (State.dnfCheckAt_quiet _ _).toKeeps.trans (State.judgeSenders_judges _).toKeeps

/-! ## The sweep -/

theorem State.signalContact_quiet (st : Station) (a b : ProxState) : s.Quiet (s.signalContact st a b) := by
  unfold State.signalContact
  split
  · exact State.signalAt_quiet _ _
  · exact State.Quiet.rfl

theorem State.signalDraft_quiet (st : Station) (a b : ProxState) : s.Quiet (s.signalDraft st a b) := by
  unfold State.signalDraft
  split
  · exact State.signalAt_quiet _ _
  · exact State.Quiet.rfl

theorem State.evaluatePeer_quiet (st : Station) : s.Quiet (s.evaluatePeer st) :=
  ((State.setProx_quiet _).trans (State.signalContact_quiet _ _ _)).trans (State.signalDraft_quiet _ _ _)

theorem State.passIneligible_quiet (st : Station) : s.Quiet (s.passIneligible st) :=
  (State.setProx_quiet _).trans (State.signalDraft_quiet _ _ _)

theorem State.search_quiet (n : Nat) : ∀ (st : Station) (s : State), s.Quiet (State.search n st s) := by
  induction n with
  | zero => exact fun _ _ => State.Quiet.rfl
  | succ n ih =>
    intro st s
    unfold State.search
    split
    · exact (State.evaluatePeer_quiet _).trans (State.setProx_quiet _)
    · exact (State.passIneligible_quiet _).trans (ih _ _)

/-- A sweep step touches the Proximity Monitor and the event latch alone (R136). -/
theorem State.sweep_quiet : s.Quiet s.sweep := (State.setProx_quiet _).trans (State.search_quiet _ _ _)

end Sys2Proof.Machine
end

