-- ==== Sys2Proof/Laws/Window.lean ====
section
/-! SUPPORT. What one window expiry in a race can do to a starter, said once: the Link Monitor's judgement (R157, R158) and
the DNF check (R159). -/

namespace Sys2Proof.Machine

variable {s t u : State} {st x : Station}

/-- In RACING, FINISHED and RESULTS a re-evaluation recomputes the lobby set alone (R82); stated for a race under way. -/
theorem State.reevaluate_inRace (h : s.session.phase.inRace = true) : s.reevaluate = s.recomputeLobby := by
  unfold State.reevaluate
  cases k : s.session.phase <;> simp [k, Phase.inRace] at h ⊢

theorem Phase.inRace_outsideRace {p : Phase} (h : p.inRace = true) : p.outsideRace = false := by
  cases p <;> simp [Phase.inRace, Phase.outsideRace] at h ⊢

/-! ## What a starter hangs on -/

/-- The step between two states moves nothing that the status and the presentation of this starter hang on: the phase, the
agreement, the clock, the Peer Table, the store and its record (R116, R123, R126, R157). -/
structure State.Presents (st : Station) (s t : State) : Prop where
  phase : t.session.phase = s.session.phase
  agreed : t.session.agreed = s.session.agreed
  tag : t.session.tag = s.session.tag
  rule : t.session.rule = s.session.rule
  clock : t.clock = s.clock
  table : t.table = s.table
  store : t.store = s.store
  starter : t.standings.at st = s.standings.at st

theorem State.Presents.rfl : s.Presents st s :=
  ⟨.refl _, .refl _, .refl _, .refl _, .refl _, .refl _, .refl _, .refl _⟩

theorem State.Presents.trans (h : s.Presents st t) (k : t.Presents st u) : s.Presents st u :=
  ⟨k.1.trans h.1, k.2.trans h.2, k.3.trans h.3, k.4.trans h.4, k.5.trans h.5, k.6.trans h.6, k.7.trans h.7,
    k.8.trans h.8⟩

theorem State.Presents.presentRecord (h : s.Presents st t) (c : Time) : t.presentRecord st c = s.presentRecord st c := by
  unfold State.presentRecord State.raceRecord State.track State.courseLength State.laps State.grid
  rw [h.table, h.tag, h.rule, h.store, h.agreed]

theorem State.Presents.now (h : s.Presents st t) : t.now = s.now := by unfold State.now; rw [h.clock]

theorem State.recomputeLobby_presents : s.Presents st s.recomputeLobby :=
  ⟨.refl _, .refl _, .refl _, .refl _, .refl _, .refl _, .refl _, .refl _⟩

theorem State.putSender_presents (y : Sender) : s.Presents st (s.putSender x y) :=
  ⟨.refl _, .refl _, .refl _, .refl _, .refl _, .refl _, .refl _, .refl _⟩

/-- A sender's record replaced and an event latched for it. -/
theorem State.putSender_signalAt_presents (y : Sender) (e : Event) :
    s.Presents st ((s.putSender x y).signalAt e x) :=
  ⟨.refl _, .refl _, .refl _, .refl _, .refl _, .refl _, .refl _, .refl _⟩

theorem State.putStarter_presents (h : st ≠ x) (r : Starter) : s.Presents st (s.putStarter x r) :=
  ⟨.refl _, .refl _, .refl _, .refl _, .refl _, .refl _, .refl _, Standings.put_at_ne _ _ h⟩

theorem State.reevaluate_presents (h : s.session.phase.inRace = true) : s.Presents st s.reevaluate := by
  rw [State.reevaluate_inRace h]; exact State.recomputeLobby_presents

theorem State.starterLost_presents (h : st ≠ x) : s.Presents st (s.starterLost x) := by
  unfold State.starterLost; repeat' split
  all_goals first
    | exact State.putStarter_presents h _
    | exact .rfl

theorem State.starterBack_presents (h : st ≠ x) : s.Presents st (s.starterBack x) := by
  unfold State.starterBack; repeat' split
  all_goals first
    | exact State.putStarter_presents h _
    | exact .rfl

/-! ## The judgement of other senders -/

theorem State.judgeChatter_presents (h : st ≠ x) :
    s.Presents st (s.judgeChatter x) ∧ (s.judgeChatter x).link.at st = s.link.at st := by
  unfold State.judgeChatter; dsimp only; split
  · exact ⟨State.putSender_signalAt_presents _ _, Link.put_at_ne _ _ h⟩
  · exact ⟨.rfl, .refl _⟩

/-- The judgement of another sender in a race leaves this starter and its sender record (R26 to R32). -/
theorem State.judgeSender_presents (h : st ≠ x) (p : s.session.phase.inRace = true) {phase : Phase}
    (q : phase.inRace = true) :
    s.Presents st (State.judgeSender phase s x) ∧ (State.judgeSender phase s x).link.at st = s.link.at st := by
  have link : ∀ t : State, t.reevaluate.link = t.link := fun t => State.reevaluate_quiet.link
  have again : ∀ t : State, s.Presents st t → t.link.at st = s.link.at st →
      s.Presents st t.reevaluate ∧ t.reevaluate.link.at st = s.link.at st := fun t k l =>
    ⟨k.trans (State.reevaluate_presents (by rw [k.phase]; exact p)), by rw [link, l]⟩
  have j : s.Presents st (s.judgePresence phase x) ∧ (s.judgePresence phase x).link.at st = s.link.at st := by
    unfold State.judgePresence; dsimp only
    split
    case h_1 => exact ⟨.rfl, .refl _⟩
    case h_2 =>
      unfold State.judgeAcquiring; repeat' split
      · exact again _ (State.putSender_signalAt_presents _ _) (Link.put_at_ne _ _ h)
      · exact ⟨State.putSender_presents _, Link.put_at_ne _ _ h⟩
      · exact ⟨.rfl, .refl _⟩
    case h_3 =>
      unfold State.judgePresent; split
      · exact ⟨State.putSender_presents _, Link.put_at_ne _ _ h⟩
      · exact ⟨.rfl, .refl _⟩
    case h_4 =>
      unfold State.judgeFading; dsimp only; repeat' split
      · exact ⟨State.putSender_presents _, Link.put_at_ne _ _ h⟩
      · exact ⟨.rfl, .refl _⟩
      · refine again _ ((State.putSender_signalAt_presents _ _).trans (State.starterLost_presents h)) ?_
        rw [(State.starterLost_quiet x).link]; exact Link.put_at_ne _ _ h
      · exact ⟨State.putSender_presents _, Link.put_at_ne _ _ h⟩
    case h_5 =>
      unfold State.judgeLost; split
      · refine again _ ((State.putSender_signalAt_presents _ _).trans (State.starterBack_presents h)) ?_
        rw [(State.starterBack_quiet x).link]; exact Link.put_at_ne _ _ h
      · rw [Phase.inRace_outsideRace q]; exact ⟨.rfl, .refl _⟩
  have c := State.judgeChatter_presents (s := s.judgePresence phase x) h
  exact ⟨j.1.trans c.1, c.2.trans j.2⟩

/-- So does the judgement of several others. -/
theorem foldl_judgeSender_presents {phase : Phase} (q : phase.inRace = true) (l : List Station) (h : st ∉ l) :
    ∀ s : State, s.session.phase.inRace = true → s.Presents st (l.foldl (State.judgeSender phase) s) ∧
      (l.foldl (State.judgeSender phase) s).link.at st = s.link.at st := by
  induction l with
  | nil => exact fun s _ => ⟨.rfl, .refl _⟩
  | cons a l ih =>
    intro s p
    have k := State.judgeSender_presents (s := s) (st := st) (x := a) (fun e => h (e ▸ List.mem_cons_self)) p q
    have m := ih (fun e => h (List.mem_cons_of_mem _ e)) (State.judgeSender phase s a) (by rw [k.1.phase]; exact p)
    exact ⟨k.1.trans m.1, m.2.trans k.2⟩

/-! ## The judgement of the starter's own sender -/

/-- The sender goes from FADING to LOST at this expiry (R29). -/
def State.fallsLost (s : State) (st : Station) : Prop :=
  (s.link.at st).presence = .fading ∧ (s.link.at st).count.toNat < s.store.off ∧
    min ((s.link.at st).fade + 1) s.store.dropout = s.store.dropout

/-- What one window expiry's judgement has made of a starter whose record was `r`: LOST with its presented distance held
where its sender falls LOST (R157), RUNNING again where it returns (R158), else as it was; and the LOST entry time of its
sender is C where it falls LOST, and stands where it stays LOST (R29, R30).  The phase, the clock and the store stay. -/
structure State.Judged (st : Station) (r : Starter) (s t : State) : Prop where
  lost : r.status = .running → s.fallsLost st →
    t.standings.at st = some { r with status := .lost, heldAt := some (s.presentRecord st s.now).distance }
  back : r.status = .lost → (s.link.at st).presence = .lost → s.store.on ≤ (s.link.at st).count.toNat →
    t.standings.at st = some { r with status := .running }
  stays : ¬ (r.status = .running ∧ s.fallsLost st) →
    ¬ (r.status = .lost ∧ (s.link.at st).presence = .lost ∧ s.store.on ≤ (s.link.at st).count.toNat) →
    t.standings.at st = some r
  entered : s.fallsLost st → (t.link.at st).lostAt = some s.now
  away : (s.link.at st).presence = .lost → (s.link.at st).count.toNat < s.store.on →
    (t.link.at st).lostAt = (s.link.at st).lostAt
  phase : t.session.phase = s.session.phase
  clock : t.clock = s.clock
  store : t.store = s.store

theorem State.Judged.of_stays {r : Starter} (k : t.standings.at st = some r) (f : ¬ s.fallsLost st)
    (b : ¬ ((s.link.at st).presence = .lost ∧ s.store.on ≤ (s.link.at st).count.toNat))
    (a : (s.link.at st).presence = .lost → (s.link.at st).count.toNat < s.store.on →
      (t.link.at st).lostAt = (s.link.at st).lostAt)
    (p : t.session.phase = s.session.phase) (c : t.clock = s.clock) (e : t.store = s.store) : s.Judged st r t :=
  ⟨fun _ h => absurd h f, fun _ h h' => absurd ⟨h, h'⟩ b, fun _ _ => k, fun h => absurd h f, a, p, c, e⟩

/-- The Standings Unit told of a starter fallen LOST, from a state that moves nothing the starter hangs on (R157). -/
theorem State.Judged.of_starterLost (p : s.session.phase.inRace = true) {r : Starter} (k : s.standings.at st = some r)
    (f : s.fallsLost st) {w : State} (pr : s.Presents st w) (la : (w.link.at st).lostAt = some s.now) :
    s.Judged st r (w.starterLost st).reevaluate := by
  have wp : w.session.phase.inRace = true := by rw [pr.phase]; exact p
  have fr : (w.starterLost st).session = w.session ∧ (w.starterLost st).clock = w.clock ∧
      (w.starterLost st).store = w.store := by
    unfold State.starterLost; repeat' split
    all_goals exact ⟨rfl, rfl, rfl⟩
  have e : (w.starterLost st).standings.at st = some (if r.status = .running then
      { r with status := .lost, heldAt := some (s.presentRecord st s.now).distance } else r) := by
    unfold State.starterLost
    rw [pr.starter, k]; dsimp only; rw [wp]; simp only [true_and]
    split
    · rw [← pr.presentRecord, ← pr.now]; exact Standings.put_at_self _ _ _
    · exact pr.starter.trans k
  have away : (s.link.at st).presence ≠ .lost := by rw [f.1]; nofun
  rw [State.reevaluate_inRace (by rw [fr.1]; exact wp)]
  exact ⟨fun h _ => e.trans (by rw [if_pos h]), fun _ h _ => absurd h away,
    fun h _ => e.trans (by rw [if_neg fun h' => h ⟨h', f⟩]),
    fun _ => (congrArg (fun l => (Link.at l st).lostAt) (State.starterLost_quiet st).link).trans la,
    fun h _ => absurd h away, (congrArg Session.phase fr.1).trans pr.phase, fr.2.1.trans pr.clock,
    fr.2.2.trans pr.store⟩

/-- The Standings Unit told of a starter's return, from a state that moves nothing the starter hangs on (R158). -/
theorem State.Judged.of_starterBack (p : s.session.phase.inRace = true) {r : Starter} (k : s.standings.at st = some r)
    (l : (s.link.at st).presence = .lost) (n : s.store.on ≤ (s.link.at st).count.toNat) {w : State}
    (pr : s.Presents st w) : s.Judged st r (w.starterBack st).reevaluate := by
  have wp : w.session.phase.inRace = true := by rw [pr.phase]; exact p
  have fr : (w.starterBack st).session = w.session ∧ (w.starterBack st).clock = w.clock ∧
      (w.starterBack st).store = w.store := by
    unfold State.starterBack; repeat' split
    all_goals exact ⟨rfl, rfl, rfl⟩
  have e : (w.starterBack st).standings.at st =
      some (if r.status = .lost then { r with status := .running } else r) := by
    unfold State.starterBack
    rw [pr.starter, k]; dsimp only; rw [wp]; simp only [true_and]
    split
    · exact Standings.put_at_self _ _ _
    · exact pr.starter.trans k
  have f : ¬ s.fallsLost st := fun h => by rw [h.1] at l; cases l
  rw [State.reevaluate_inRace (by rw [fr.1]; exact wp)]
  exact ⟨fun _ h => absurd h f, fun h _ _ => e.trans (by rw [if_pos h]),
    fun _ h => e.trans (by rw [if_neg fun h' => h ⟨h', l, n⟩]), fun h => absurd h f, fun _ h => by omega,
    (congrArg Session.phase fr.1).trans pr.phase, fr.2.1.trans pr.clock, fr.2.2.trans pr.store⟩

/-- The presence rule of a starter's own sender in a race. -/
theorem State.judgePresence_starter (p : s.session.phase.inRace = true) {phase : Phase} (q : phase.inRace = true)
    (o : s.store.off ≤ s.store.on) {r : Starter} (k : s.standings.at st = some r) :
    s.Judged st r (s.judgePresence phase st) := by
  unfold State.judgePresence; dsimp only
  split
  case h_1 e => exact .of_stays k (by simp [State.fallsLost, e]) (by simp [e]) (fun _ _ => rfl) rfl rfl rfl
  case h_2 e =>
    have f : ¬ s.fallsLost st := by simp [State.fallsLost, e]
    unfold State.judgeAcquiring; split
    · rw [State.reevaluate_inRace (s := (s.putSender st _).signalAt .peerUp st) p]
      exact .of_stays k f (by simp [e]) (by simp [e]) rfl rfl rfl
    · split <;> exact .of_stays k f (by simp [e]) (by simp [e]) rfl rfl rfl
  case h_3 e =>
    unfold State.judgePresent
    split <;> exact .of_stays k (by simp [State.fallsLost, e]) (by simp [e]) (by simp [e]) rfl rfl rfl
  case h_4 e =>
    unfold State.judgeFading; dsimp only; split
    case isTrue n => exact .of_stays k (fun h => by have := h.2.1; omega) (by simp [e]) (by simp [e]) rfl rfl rfl
    case isFalse =>
      split
      case isTrue n => exact .of_stays k (fun h => by have := h.2.1; omega) (by simp [e]) (by simp [e]) rfl rfl rfl
      case isFalse n =>
        split
        case isFalse m => exact .of_stays k (fun h => m h.2.2) (by simp [e]) (by simp [e]) rfl rfl rfl
        case isTrue m =>
          refine .of_starterLost p k ⟨e, by omega, m⟩ (State.putSender_signalAt_presents _ _) ?_
          exact congrArg Sender.lostAt (Link.put_at_self s.link st _)
  case h_5 e =>
    unfold State.judgeLost; split
    case isTrue n => exact .of_starterBack p k e n (State.putSender_signalAt_presents _ _)
    case isFalse n =>
      rw [Phase.inRace_outsideRace q]
      exact .of_stays k (by simp [State.fallsLost, e]) (fun h => n h.2) (fun _ _ => rfl) rfl rfl rfl

/-- The judgement of every sender in a race, as one starter sees it (R26, R157, R158). -/
theorem State.judgeSenders_starter (p : s.session.phase.inRace = true) (o : s.store.off ≤ s.store.on) {r : Starter}
    (k : s.standings.at st = some r) : s.Judged st r (s.judgeSenders s.session.phase) := by
  obtain ⟨l1, l2, e⟩ := List.append_of_mem (mem_stations st)
  have nd := stations_nodup
  rw [e, List.nodup_append] at nd
  have n1 : st ∉ l1 := fun h => nd.2.2 st h st List.mem_cons_self rfl
  have n2 : st ∉ l2 := (List.nodup_cons.mp nd.2.1).1
  unfold State.judgeSenders
  rw [e, List.foldl_append, List.foldl_cons]
  obtain ⟨pa, ka⟩ := foldl_judgeSender_presents p l1 n1 s p
  generalize List.foldl (State.judgeSender s.session.phase) s l1 = a at *
  have j := State.judgePresence_starter (s := a) (st := st) (by rw [pa.phase]; exact p) p (by rw [pa.store]; exact o)
    (pa.starter.trans k)
  have c : (a.judgePresence s.session.phase st).Presents st (State.judgeSender s.session.phase a st) ∧
      ((State.judgeSender s.session.phase a st).link.at st).lostAt =
        ((a.judgePresence s.session.phase st).link.at st).lostAt := by
    unfold State.judgeSender State.judgeChatter; dsimp only; split
    · refine ⟨State.putSender_signalAt_presents _ _, ?_⟩
      exact (congrArg Sender.lostAt (Link.put_at_self (a.judgePresence s.session.phase st).link st
        { (a.judgePresence s.session.phase st).link.at st with chatter := true })).trans rfl
    · exact ⟨.rfl, rfl⟩
  generalize a.judgePresence s.session.phase st = b at *
  generalize State.judgeSender s.session.phase a st = d at *
  obtain ⟨pd, kd⟩ := foldl_judgeSender_presents p l2 n2 d (by rw [c.1.phase, j.phase, pa.phase]; exact p)
  have f : a.fallsLost st ↔ s.fallsLost st := by unfold State.fallsLost; rw [ka, pa.store]
  have up := c.1.trans pd
  have la : ((List.foldl (State.judgeSender s.session.phase) d l2).link.at st).lostAt = (b.link.at st).lostAt := by
    rw [kd, c.2]
  refine ⟨fun h i => up.starter.trans ?_, fun h i n => up.starter.trans ?_, fun h i => up.starter.trans ?_,
    fun h => la.trans ?_, fun h i => la.trans ?_, up.phase.trans (j.phase.trans pa.phase),
    up.clock.trans (j.clock.trans pa.clock), up.store.trans (j.store.trans pa.store)⟩
  · rw [j.lost h (f.mpr i), pa.presentRecord, pa.now]
  · exact j.back h (by rw [ka]; exact i) (by rw [ka, pa.store]; exact n)
  · exact j.stays (by rw [f]; exact h) (by rw [ka, pa.store]; exact i)
  · rw [j.entered (f.mpr h), pa.now]
  · rw [j.away (by rw [ka]; exact h) (by rw [ka, pa.store]; exact i), ka]

/-! ## The DNF check (R159) -/

theorem State.raceOver_at (cause : EndCause) :
    (s.raceOver cause).standings.at st = (s.standings.at st).map Starter.close := Standings.at_mapAll _ _ _

/-- The check of another starter leaves this one while this one is RUNNING or LOST: the race cannot be over by it (R163). -/
theorem State.dnfCheckOne_other (h : st ≠ x) {r : Starter} (k : s.standings.at st = some r) (o : r.status.open = true) :
    s.Presents st (s.dnfCheckOne x) := by
  unfold State.dnfCheckOne; split
  case isFalse => exact .rfl
  case isTrue =>
    split
    case h_2 => exact .rfl
    case h_1 y _ =>
      have p := State.putStarter_presents (s := s) h { y with status := .dnf }
      have n : (s.putStarter x { y with status := .dnf }).allDone = false := by
        unfold State.allDone
        rw [List.all_eq_false]
        refine ⟨st, mem_stations st, ?_⟩
        rw [p.starter, k]; dsimp only
        cases c : r.status <;> rw [c] at o <;> simp [RaceStatus.open, RaceStatus.stillRunning] at o ⊢
      unfold State.statusChanged
      rw [n]; simpa using p

/-- So does the check of several others. -/
theorem foldl_dnfCheckOne_other (l : List Station) (h : st ∉ l) {r : Starter} (o : r.status.open = true) :
    ∀ s : State, s.standings.at st = some r → s.Presents st (l.foldl State.dnfCheckOne s) := by
  induction l with
  | nil => exact fun s _ => .rfl
  | cons a l ih =>
    intro s k
    have c := State.dnfCheckOne_other (x := a) (fun e => h (e ▸ List.mem_cons_self)) k o
    exact c.trans (ih (fun e => h (List.mem_cons_of_mem _ e)) (s.dnfCheckOne a) (c.starter.trans k))

/-- The check of one starter: DNF exactly when it is due (R159). -/
theorem State.dnfCheckOne_self {r : Starter} (k : s.standings.at st = some r) :
    (s.dnfCheckOne st).standings.at st = some (if s.dnfDue st then { r with status := .dnf } else r) := by
  unfold State.dnfCheckOne; split
  case isFalse => exact k
  case isTrue =>
    have p : (s.putStarter st { r with status := .dnf }).standings.at st = some { r with status := .dnf } :=
      Standings.put_at_self _ _ _
    rw [k]; dsimp only
    unfold State.statusChanged; split
    · rw [State.raceOver_at, p]; simp [Starter.close, RaceStatus.open]
    · exact p

/-- DNF is final through the check of the rest (R154). -/
theorem foldl_dnfCheckOne_final (l : List Station) {r : Starter} (n : r.status = .dnf) :
    ∀ s : State, s.standings.at st = some r → (l.foldl State.dnfCheckOne s).standings.at st = some r := by
  induction l with
  | nil => exact fun s k => k
  | cons a l ih =>
    intro s k
    refine ih _ ?_
    by_cases e : st = a
    · subst e
      rw [State.dnfCheckOne_self k, if_neg]
      unfold State.dnfDue; rw [k]
      split
      case h_1 y _ e _ => cases e; simp [n]
      case h_2 => simp
    · unfold State.dnfCheckOne; repeat' split
      case h_1 y _ =>
        have p : (s.putStarter a { y with status := .dnf }).standings.at st = some r :=
          (Standings.put_at_ne _ _ e).trans k
        unfold State.statusChanged; split
        · rw [State.raceOver_at, p]; simp [Starter.close, n, RaceStatus.open]
        · exact p
      all_goals exact k

/-- The DNF check as a starter RUNNING or LOST sees it: DNF exactly when it is due, and else nothing it hangs on moves
(R159). -/
theorem State.dnfCheck_starter {r : Starter} (k : s.standings.at st = some r) (o : r.status.open = true) :
    s.dnfCheck.standings.at st = some (if s.dnfDue st then { r with status := .dnf } else r) ∧
      (s.dnfDue st = false → s.Presents st s.dnfCheck) ∧ s.dnfCheck.link = s.link := by
  obtain ⟨l1, l2, e⟩ := List.append_of_mem (mem_stations st)
  have nd := stations_nodup
  rw [e, List.nodup_append] at nd
  have n1 : st ∉ l1 := fun h => nd.2.2 st h st List.mem_cons_self rfl
  have n2 : st ∉ l2 := (List.nodup_cons.mp nd.2.1).1
  have link : ∀ l : List Station, ∀ s : State, (l.foldl State.dnfCheckOne s).link = s.link := by
    intro l
    induction l with
    | nil => exact fun _ => rfl
    | cons a l ih => exact fun s => (ih _).trans (State.dnfCheckOne_quiet a).link
  refine (fun h => ⟨h.1, h.2, State.dnfCheck_quiet.link⟩ : _ ∧ _ → _) ?_
  unfold State.dnfCheck
  rw [e, List.foldl_append, List.foldl_cons]
  have pa := foldl_dnfCheckOne_other l1 n1 o s k
  have la := link l1 s
  generalize List.foldl State.dnfCheckOne s l1 = a at *
  have ka := pa.starter.trans k
  have self := State.dnfCheckOne_self ka
  have due : a.dnfDue st = s.dnfDue st := by
    unfold State.dnfDue State.dnfTimeout; rw [pa.starter, la, pa.phase, pa.store, pa.now]
  rw [due] at self
  by_cases d : s.dnfDue st = true
  · rw [d] at self ⊢
    exact ⟨foldl_dnfCheckOne_final l2 rfl _ self, nofun⟩
  · have d' : s.dnfDue st = false := by simpa using d
    have ea : a.dnfCheckOne st = a := by unfold State.dnfCheckOne; rw [due, d']; rfl
    rw [ea, d']
    have pb := pa.trans (foldl_dnfCheckOne_other l2 n2 o a ka)
    exact ⟨pb.starter.trans k, fun _ => pb⟩

end Sys2Proof.Machine
end

