-- ==== Sys2Proof/Laws/Expiry.lean ====
section
/-! SUPPORT. What one window expiry can do to the Session Controller, said once: which senders have it re-evaluate, the
state each re-evaluation starts from, and what it comes to in the countdown and in a lobby that may not propose (R26 to
R31, R34, R42, R82, R96). -/

namespace Sys2Proof.Machine

variable {s t u r : State} {st z : Station} {phase : Phase} {m : StationSet}

/-- A sender that becomes live, ceases to be live, or is made ABSENT out of LOST at a window expiry of this phase (R27,
R29 to R31): exactly these have the Session Controller re-evaluate. -/
def State.moves (phase : Phase) (s : State) (st : Station) : Prop :=
  ((s.link.at st).presence = .acquiring ∧ s.store.on ≤ (s.link.at st).count.toNat) ∨
  ((s.link.at st).presence = .fading ∧ (s.link.at st).count.toNat < s.store.on ∧
    (s.link.at st).count.toNat < s.store.off ∧ min ((s.link.at st).fade + 1) s.store.dropout = s.store.dropout) ∨
  ((s.link.at st).presence = .lost ∧ s.store.on ≤ (s.link.at st).count.toNat) ∨
  ((s.link.at st).presence = .lost ∧ (s.link.at st).count.toNat < s.store.on ∧ phase.outsideRace = true ∧
    32 ≤ (s.link.at st).expiry + 1)

/-- The kinds of event that the Session Controller's lobby work latches (R85, R86, R99). -/
def Event.ofLobby (e : Event) : Prop := e = .aborted ∨ e = .ruleChange ∨ e = .cleardown

/-! ## Frames -/

/-- Nothing that a re-evaluation reads or moves is moved, but for who may be live. -/
structure State.Stirs (s t : State) : Prop where
  straps : t.straps = s.straps
  store : t.store = s.store
  session : t.session = s.session
  motion : t.motion = s.motion
  standings : t.standings = s.standings
  prox : t.prox = s.prox
  latched : ∀ e : Event, e.ofLobby → t.port.latched e = s.port.latched e

/-- Besides, the Peer Table, the clock and who is live are as they were. -/
structure State.Alike (s t : State) : Prop extends State.Stirs s t where
  table : t.table = s.table
  clock : t.clock = s.clock
  live : ∀ z, t.live z = s.live z

/-- One sender has moved: the state its re-evaluation starts from. -/
structure State.Stirred (st : Station) (s t : State) : Prop extends State.Stirs s t where
  clock : t.clock = s.clock
  table : ∀ z, z ≠ st → t.table.at z = s.table.at z
  entry : s.live st = true → t.table.at st = s.table.at st
  live : ∀ z, z ≠ st → t.live z = s.live z

/-- A steering evaluation after its change of clock state: k, the debt and the payment count may have moved. -/
structure State.Settles (s t : State) : Prop extends State.Stirs s t where
  table : t.table = s.table
  state : t.clock.state = s.clock.state
  live : ∀ z, t.live z = s.live z

theorem State.Stirs.rfl : s.Stirs s :=
  ⟨.refl _, .refl _, .refl _, .refl _, .refl _, .refl _, fun _ _ => .refl _⟩

theorem State.Stirs.trans (h : s.Stirs t) (k : t.Stirs u) : s.Stirs u :=
  ⟨k.1.trans h.1, k.2.trans h.2, k.3.trans h.3, k.4.trans h.4, k.5.trans h.5, k.6.trans h.6,
    fun e o => (k.7 e o).trans (h.7 e o)⟩

theorem State.Alike.rfl : s.Alike s := ⟨.rfl, .refl _, .refl _, fun _ => .refl _⟩

theorem State.Alike.trans (h : s.Alike t) (k : t.Alike u) : s.Alike u :=
  ⟨h.toStirs.trans k.toStirs, k.table.trans h.table, k.clock.trans h.clock, fun z => (k.live z).trans (h.live z)⟩

theorem State.Alike.settles (h : s.Alike t) : s.Settles t := ⟨h.toStirs, h.table, by rw [h.clock], h.live⟩

theorem State.Settles.trans (h : s.Settles t) (k : t.Settles u) : s.Settles u :=
  ⟨h.toStirs.trans k.toStirs, k.table.trans h.table, k.state.trans h.state, fun z => (k.live z).trans (h.live z)⟩

/-- Replacing a sender's record replaces who is live at that sender alone. -/
theorem State.putSender_live (y : Sender) (z : Station) :
    (s.putSender st y).live z = if z = st then y.presence.live else s.live z := by
  unfold State.live State.putSender
  split
  · next h => subst h; simp
  · next h => simp [Link.put_at_ne _ _ h]

theorem State.putSender_alike (y : Sender) (h : y.presence.live = s.live st) : s.Alike (s.putSender st y) :=
  ⟨⟨.refl _, .refl _, .refl _, .refl _, .refl _, .refl _, fun _ _ => .refl _⟩, .refl _, .refl _, fun z => by
    rw [State.putSender_live]; split
    · next e => subst e; exact h
    · rfl⟩

/-- An occurrence latches its own kind alone (R195). -/
theorem Port.occur_latched (p : Port) (e e' : Event) (w : Option Station) :
    (p.occur e w).latched e' = (p.latched e' || decide (e' = e)) := by
  unfold Port.occur Port.latched Event.mask
  simp only [BitVec.getLsbD_or]
  congr 1
  cases e <;> cases e' <;> rfl

theorem State.signalAt_alike {e : Event} (h : ¬ e.ofLobby) (w : Station) : s.Alike (s.signalAt e w) :=
  ⟨⟨.refl _, .refl _, .refl _, .refl _, .refl _, .refl _, fun e' o => by
    rw [show (s.signalAt e w).port = s.port.occur e (some w) from rfl, Port.occur_latched,
      decide_eq_false (fun k : e' = e => h (k ▸ o)), Bool.or_false]⟩, .refl _, .refl _, fun _ => .refl _⟩

/-! ## The judgement of one sender -/

theorem State.judgeChatter_alike : s.Alike (s.judgeChatter st) := by
  unfold State.judgeChatter; dsimp only; split
  · exact (State.putSender_alike _ (by simp [State.live])).trans (State.signalAt_alike (by simp [Event.ofLobby]) _)
  · exact .rfl

/-- A sender that does not move leaves the session alone, and all that a re-evaluation reads (R26 to R32). -/
theorem State.judgeSender_still (h : ¬ s.moves phase st) : s.Alike (State.judgeSender phase s st) := by
  refine State.Alike.trans ?_ State.judgeChatter_alike
  unfold State.judgePresence; dsimp only
  unfold State.moves at h
  split
  case h_1 => exact .rfl
  case h_2 e =>
    unfold State.judgeAcquiring; split
    · simp_all
    · split
      · exact State.putSender_alike _ (by simp [State.live, e, Presence.live])
      · exact .rfl
  case h_3 e =>
    unfold State.judgePresent; split
    · exact State.putSender_alike _ (by simp [State.live, e, Presence.live])
    · exact .rfl
  case h_4 e =>
    unfold State.judgeFading; dsimp only; repeat' split
    · exact State.putSender_alike _ (by simp [State.live, e, Presence.live])
    · exact .rfl
    · next d => exact absurd (.inr (.inl ⟨e, by omega, by omega, d⟩)) h
    · exact State.putSender_alike _ (by simp [State.live, e, Presence.live])
  case h_5 e =>
    unfold State.judgeLost; repeat' split
    · simp_all
    · next o d => exact absurd (.inr (.inr (.inr ⟨e, by omega, o, d⟩))) h
    · exact State.putSender_alike _ (by simp [State.live, e, Presence.live])
    · exact .rfl

theorem State.starterLost_idle (h : s.session.phase.inRace = false) : s.starterLost st = s := by
  unfold State.starterLost; split
  · rw [h]; simp
  · rfl

theorem State.starterBack_idle (h : s.session.phase.inRace = false) : s.starterBack st = s := by
  unfold State.starterBack; split
  · rw [h]; simp
  · rfl

theorem State.putSender_signalAt_stirred {e : Event} (h : ¬ e.ofLobby) (y : Sender) :
    s.Stirred st ((s.putSender st y).signalAt e st) :=
  ⟨State.Stirs.trans (t := s.putSender st y)
    ⟨.refl _, .refl _, .refl _, .refl _, .refl _, .refl _, fun _ _ => .refl _⟩
    (State.signalAt_alike h st).toStirs, .refl _, fun _ _ => .refl _, fun _ => .refl _,
    fun z h => (State.putSender_live (s := s) (st := st) y z).trans (if_neg h)⟩

/-- A sender that moves has the Session Controller re-evaluate (R34, R63, R82): outside a race from a state that
differs by that sender's liveness alone, or by its emptied entry where it was not live. -/
theorem State.judgeSender_moves (h : s.moves phase st) :
    ∃ r, r.reevaluate.Alike (State.judgeSender phase s st) ∧
      r.live st = decide (s.store.on ≤ (s.link.at st).count.toNat) ∧
      (s.session.phase.inRace = false → s.Stirred st r) := by
  have told : ∀ e ∈ [Event.peerUp, .peerLost, .peerBack], ¬ e.ofLobby := by simp [Event.ofLobby]
  rcases h with ⟨e, n⟩ | ⟨e, n, o, d⟩ | ⟨e, n⟩ | ⟨e, n, o, d⟩
  · refine ⟨(s.putSender st { s.link.at st with presence := .present }).signalAt .peerUp st, ?_, ?_,
      fun _ => State.putSender_signalAt_stirred (told _ (by simp)) _⟩
    · unfold State.judgeSender State.judgePresence
      simp only [e, State.judgeAcquiring, n, if_true]
      exact State.judgeChatter_alike
    · refine (State.putSender_live _ _).trans ?_; simp [n, Presence.live]
  · refine ⟨((s.putSender st { s.link.at st with
      presence := .lost, fade := 0, expiry := 0, lostAt := some s.now }).signalAt .peerLost st).starterLost st,
      ?_, ?_, fun p => ?_⟩
    · unfold State.judgeSender State.judgePresence
      simp only [e, State.judgeFading, if_neg (Nat.not_le.mpr n), if_neg (Nat.not_le.mpr o), d, if_true]
      exact State.judgeChatter_alike
    · unfold State.live; rw [(State.starterLost_quiet st).link]
      refine (State.putSender_live _ _).trans ?_; simp [n, Presence.live]
    · rw [State.starterLost_idle (s := (s.putSender st _).signalAt _ _) p]
      exact State.putSender_signalAt_stirred (told _ (by simp)) _
  · refine ⟨((s.putSender st { s.link.at st with
      presence := .present, expiry := 0, lostAt := none }).signalAt .peerBack st).starterBack st, ?_, ?_, fun p => ?_⟩
    · unfold State.judgeSender State.judgePresence
      simp only [e, State.judgeLost, n, if_true]
      exact State.judgeChatter_alike
    · unfold State.live; rw [(State.starterBack_quiet st).link]
      refine (State.putSender_live _ _).trans ?_; simp [n, Presence.live]
    · rw [State.starterBack_idle (s := (s.putSender st _).signalAt _ _) p]
      exact State.putSender_signalAt_stirred (told _ (by simp)) _
  · refine ⟨(s.putSender st { s.link.at st with presence := .absent, expiry := 0, lostAt := none }).putEntry st
      Entry.empty, ?_, ?_, fun _ => ⟨
        ⟨.refl _, .refl _, .refl _, .refl _, .refl _, .refl _, fun _ _ => .refl _⟩,
        .refl _, fun z h => Table.put_at_ne _ _ h,
        fun h => by simp [State.live, e, Presence.live] at h,
        fun z h => (State.putSender_live (s := s) (st := st) _ z).trans (if_neg h)⟩⟩
    · unfold State.judgeSender State.judgePresence
      simp only [e, State.judgeLost, if_neg (Nat.not_le.mpr n), o, if_true]
      rw [if_pos (show Config.lobbyExpiry ≤ _ from d)]
      exact State.judgeChatter_alike
    · refine (State.putSender_live (s := s) (st := st) _ st).trans ?_; simp [n, Presence.live]

/-- The judgement of one sender leaves the record of every other. -/
theorem State.judgeSender_at_ne (h : st ≠ z) (phase : Phase) :
    (State.judgeSender phase s z).link.at st = s.link.at st := by
  have link : ∀ t : State, t.reevaluate.link = t.link := fun t => State.reevaluate_quiet.link
  have c : ∀ t : State, (t.judgeChatter z).link.at st = t.link.at st := fun t => by
    unfold State.judgeChatter; dsimp only; split
    · exact Link.put_at_ne _ _ h
    · rfl
  refine (c _).trans ?_
  unfold State.judgePresence; dsimp only; split
  case h_1 => rfl
  case h_2 =>
    unfold State.judgeAcquiring; repeat' split
    · rw [link]; exact Link.put_at_ne _ _ h
    · exact Link.put_at_ne _ _ h
    · rfl
  case h_3 =>
    unfold State.judgePresent; split
    · exact Link.put_at_ne _ _ h
    · rfl
  case h_4 =>
    unfold State.judgeFading; dsimp only; repeat' split
    · exact Link.put_at_ne _ _ h
    · rfl
    · rw [link, (State.starterLost_quiet z).link]; exact Link.put_at_ne _ _ h
    · exact Link.put_at_ne _ _ h
  case h_5 =>
    unfold State.judgeLost; repeat' split
    · rw [link, (State.starterBack_quiet z).link]; exact Link.put_at_ne _ _ h
    · unfold State.emptyEntry; rw [link]; exact Link.put_at_ne _ _ h
    · exact Link.put_at_ne _ _ h
    · rfl

/-! ## The judgement of every sender -/

theorem State.moves_of (h : t.link.at st = s.link.at st) (k : t.store = s.store) :
    t.moves phase st ↔ s.moves phase st := by
  unfold State.moves; rw [h, k]

/-- What the judgement of one sender keeps or brings, the judgement of each sender of a list in turn does: each is
judged by the record and the store it had at the expiry. -/
theorem foldl_judgeSender_induct {s : State} {P : List Station → State → Prop} (l : List Station) (nd : l.Nodup)
    (h : P [] s)
    (step : ∀ (done : List Station) (st : Station) (u : State), st ∉ done → u.link.at st = s.link.at st →
      u.store = s.store → P done u → P (done ++ [st]) (State.judgeSender phase u st)) :
    P l (l.foldl (State.judgeSender phase) s) := by
  have go : ∀ (l done : List Station) (u : State), (done ++ l).Nodup → (∀ z ∈ l, u.link.at z = s.link.at z) →
      u.store = s.store → P done u → P (done ++ l) (l.foldl (State.judgeSender phase) u) := by
    intro l
    induction l with
    | nil => intro done u _ _ _ p; rw [List.append_nil]; exact p
    | cons a l ih =>
      intro done u nd k e p
      have n := List.nodup_append.mp nd
      have a_done : a ∉ done := fun i => n.2.2 a i a List.mem_cons_self rfl
      have a_l : a ∉ l := (List.nodup_cons.mp n.2.1).1
      have := ih (done ++ [a]) (State.judgeSender phase u a) (by simpa using nd)
        (fun z hz => (State.judgeSender_at_ne (fun i : z = a => a_l (i ▸ hz)) phase).trans
          (k z (List.mem_cons_of_mem _ hz)))
        ((State.judgeSender_judges phase a).store.trans e) (step done a u a_done (k a List.mem_cons_self) e p)
      simpa using this
  exact go l [] s nd (fun _ _ => rfl) rfl h

/-- Where no sender moves the judgement leaves the session alone. -/
theorem State.judgeSenders_still (h : ∀ z, ¬ s.moves phase z) : s.Alike (s.judgeSenders phase) :=
  foldl_judgeSender_induct (P := fun _ u => s.Alike u) stations stations_nodup .rfl fun _ st _ _ k e a =>
    a.trans (State.judgeSender_still (by rw [State.moves_of k e]; exact h st))

/-- Where exactly one sender moves, the judgement comes to one re-evaluation from the state that sender stirred. -/
theorem State.judgeSenders_one (p : s.session.phase.inRace = false) (h : s.moves phase st)
    (only : ∀ z, s.moves phase z → z = st) : ∃ r, s.Stirred st r ∧ r.reevaluate.Alike (s.judgeSenders phase) := by
  have := foldl_judgeSender_induct (s := s) (phase := phase)
    (P := fun done u => if st ∈ done then ∃ r, s.Stirred st r ∧ r.reevaluate.Alike u else s.Alike u)
    stations stations_nodup (by simpa using State.Alike.rfl) (fun done x u n k e a => by
      by_cases i : x = st
      · subst i
        rw [if_neg n] at a
        obtain ⟨r, al, _, sr⟩ := State.judgeSender_moves ((State.moves_of k e).mpr h)
        have sr := sr (by rw [a.session]; exact p)
        rw [if_pos (by simp)]
        exact ⟨r, ⟨a.toStirs.trans sr.toStirs, sr.clock.trans a.clock,
          fun z n => (sr.table z n).trans (by rw [a.table]),
          fun l => (sr.entry (by rw [a.live]; exact l)).trans (by rw [a.table]),
          fun z n => (sr.live z n).trans (a.live z)⟩, al⟩
      · have still := State.judgeSender_still (s := u) (phase := phase) (st := x)
          (by rw [State.moves_of k e]; exact fun m => i (only x m))
        by_cases d : st ∈ done
        · rw [if_pos d] at a; rw [if_pos (by simp [d])]
          obtain ⟨r, sr, al⟩ := a
          exact ⟨r, sr, al.trans still⟩
        · rw [if_neg d] at a; rw [if_neg (by simp [d, Ne.symm i])]
          exact a.trans still)
  rwa [if_pos (mem_stations st)] at this

/-! ## The DNF check and the steering evaluation -/

/-- Outside a race the DNF check does nothing (R159). -/
theorem State.dnfCheckAt_idle (h : s.session.phase.inRace = false) (place here : Nat) :
    s.dnfCheckAt place here = s := by
  have : ∀ l : List Station, l.foldl State.dnfCheckOne s = s := by
    intro l
    induction l with
    | nil => rfl
    | cons a l ih =>
      have d : s.dnfDue a = false := by unfold State.dnfDue; rw [h]; split <;> simp
      have e : s.dnfCheckOne a = s := by unfold State.dnfCheckOne; rw [d]; rfl
      rw [List.foldl_cons, e, ih]
  unfold State.dnfCheckAt State.dnfCheck; rw [this]; simp

theorem State.newWindow_alike (n : Nat) : s.Alike (s.setLink (s.link.newWindow n)) :=
  ⟨⟨.refl _, .refl _, .refl _, .refl _, .refl _, .refl _, fun _ _ => .refl _⟩, .refl _, .refl _,
    fun z => by simp [State.live, Link.newWindow_at]⟩

theorem State.applyTarget_settles (phase : Phase) (n : Int) : s.Settles (s.applyTarget phase n) := by
  unfold State.applyTarget Clock.stepWhole Clock.stepLimited; repeat' split
  all_goals
    exact ⟨⟨.refl _, .refl _, .refl _, .refl _, .refl _, .refl _, fun _ _ => .refl _⟩, .refl _, .refl _,
      fun _ => .refl _⟩

/-- A new clock state leaves the state alone where it is none, and else has the Session Controller re-evaluate (R42).
-/
theorem State.setClockState_splits (x : ClockState) : s.setClockState x = s ∨
    x ≠ s.clock.state ∧
      s.setClockState x = ((s.setClock { s.clock with state := x }).signal .clockState).reevaluate := by
  unfold State.setClockState; split
  · exact .inl rfl
  · next h => exact .inr ⟨fun e => h e.symm, rfl⟩

/-- A change of clock state latches CLOCK_STATE alone, and nothing that the Session Controller reads but the clock
state moves before its re-evaluation (R42). -/
theorem State.clockTold_stirs (x : ClockState) :
    s.Stirs ((s.setClock { s.clock with state := x }).signal .clockState) := by
  refine ⟨.refl _, .refl _, .refl _, .refl _, .refl _, .refl _, fun e o => ?_⟩
  refine (Port.occur_latched _ .clockState e none).trans ?_
  rw [decide_eq_false, Bool.or_false]
  · rfl
  · rintro rfl; simp [Event.ofLobby] at o

/-- The hand-off leaves the session alone, or changes the clock state; that change starts a re-evaluation from a state
that differs by it alone (R26, R42, R43). -/
theorem State.handOff_splits (phase : Phase) : s.Settles (s.handOff phase) ∨
    (s.handOff phase).clock.state ≠ s.clock.state ∧ ∃ r, s.Stirs r ∧ r.table = s.table ∧
      r.clock = { s.clock with state := (s.handOff phase).clock.state } ∧ (∀ z, r.live z = s.live z) ∧
      r.reevaluate.Settles (s.handOff phase) := by
  have fresh := State.newWindow_alike (s := s) s.store.windowLength
  have told : ∀ (x : ClockState) (u : State), x ≠ s.clock.state →
      (((s.setLink (s.link.newWindow s.store.windowLength)).setClock
        { s.clock with state := x }).signal .clockState).reevaluate.Settles u →
      u.clock.state ≠ s.clock.state ∧ ∃ r, s.Stirs r ∧ r.table = s.table ∧
        r.clock = { s.clock with state := u.clock.state } ∧ (∀ z, r.live z = s.live z) ∧ r.reevaluate.Settles u := by
    intro x u n k
    have c : u.clock.state = x := by rw [k.state, State.reevaluate_quiet.clock]; rfl
    rw [c]
    exact ⟨n, _, fresh.toStirs.trans (State.clockTold_stirs (s := s.setLink _) x), rfl, rfl, fresh.live, k⟩
  unfold State.handOff State.steer; dsimp only
  generalize (if (steeringTarget s.link.usable).natAbs ≤
    (s.setLink (s.link.newWindow s.store.windowLength)).store.lockBound then ClockState.locked else .drifting) = y
  generalize steeringTarget s.link.usable = n
  repeat' split
  · exact .inl fresh.settles
  · rcases State.setClockState_splits (s := s.setLink (s.link.newWindow s.store.windowLength)) .free with e | ⟨x, e⟩
    · rw [e]; exact .inl fresh.settles
    · rw [e]; exact .inr (told _ _ x State.Alike.rfl.settles)
  · rcases State.setClockState_splits (s := s.setLink (s.link.newWindow s.store.windowLength)) y with e | ⟨x, e⟩
    · rw [e]; exact .inl (fresh.settles.trans (State.applyTarget_settles _ _))
    · rw [e]; exact .inr (told _ _ x (State.applyTarget_settles _ _))

/-! ## The expiry outside a race -/

theorem State.picked_alike : s.Alike s.picked :=
  ⟨⟨.refl _, .refl _, .refl _, .refl _, .refl _, .refl _, fun _ _ => .refl _⟩, .refl _, .refl _, fun _ => .refl _⟩

/-- Outside a race, before the judgement and after it, a window expiry is the judgement and the hand-off: the DNF check
does nothing wherever it stands (R26, R43, R159). -/
theorem State.windowEvaluation_idle (p : s.session.phase.inRace = false)
    (q : (s.picked.judgeSenders s.session.phase).session.phase.inRace = false)
    (k : ((s.picked.judgeSenders s.session.phase).handOff s.session.phase).session.phase.inRace = false) :
    s.windowEvaluation = (s.picked.judgeSenders s.session.phase).handOff s.session.phase := by
  unfold State.windowEvaluation; dsimp only
  rw [State.dnfCheckAt_idle (s := s.picked) p, State.dnfCheckAt_idle (s := s.picked.judgeSenders s.session.phase) q,
    State.dnfCheckAt_idle k]

/-! ## The lobby set at the end -/

/-- The lobby set stands as R81 gives it. -/
def State.Gathered (s : State) : Prop := s.session.lobbySet = setOf s.gathers

theorem State.gathers_of_live (h : t.straps = s.straps) (k : ∀ z, t.live z = s.live z) (e : t.table = s.table) :
    t.gathers = s.gathers := by
  funext z; simp [State.gathers, State.own, h, k, e]

theorem State.Gathered.settles (h : s.Gathered) (k : s.Settles t) : t.Gathered := by
  unfold State.Gathered; rw [k.session, State.gathers_of_live k.straps k.live k.table]; exact h

theorem State.Gathered.resolveRule (h : s.Gathered) : s.resolveRule.Gathered := by
  unfold State.Gathered; rw [State.resolveRule_moves]; exact h

theorem State.recomputeLobby_gathered : s.recomputeLobby.Gathered := rfl

/-- After every re-evaluation the lobby set stands as R81 gives it (R82). -/
theorem State.reevaluate_gathered : s.reevaluate.Gathered := by
  have armed : ∀ u : State, u.evaluateArmed.Gathered := fun u => by
    unfold State.evaluateArmed; dsimp only; split
    · exact State.recomputeLobby_gathered.resolveRule
    · exact State.recomputeLobby_gathered
  have proposing : ∀ u : State, u.evaluateProposing.Gathered := fun u => by
    unfold State.evaluateProposing State.afterArmed; dsimp only; repeat' split
    · exact State.recomputeLobby_gathered.resolveRule
    · exact State.recomputeLobby_gathered
    · exact armed _
    · exact State.recomputeLobby_gathered
  unfold State.reevaluate; split
  case h_1 =>
    unfold State.evaluateLobby; dsimp only; split
    · exact proposing _
    · exact State.recomputeLobby_gathered.resolveRule
  case h_2 => exact proposing _
  case h_3 => exact armed _
  all_goals exact State.recomputeLobby_gathered

/-- Where some sender moves, the lobby set stands as R81 gives it after the judgement (R26, R34, R82). -/
theorem State.judgeSenders_gathered (h : s.moves phase st) : (s.judgeSenders phase).Gathered := by
  have := foldl_judgeSender_induct (s := s) (phase := phase) (P := fun done u => st ∈ done → u.Gathered)
    stations stations_nodup (by simp) (fun done x u n k e a i => by
      by_cases m : u.moves phase x
      · obtain ⟨r, al, _⟩ := State.judgeSender_moves m
        exact State.reevaluate_gathered.settles al.settles
      · have : st ≠ x := fun e' => m (by subst e'; exact (State.moves_of k e).mpr h)
        exact (a (by simpa [this] using i)).settles (State.judgeSender_still m).settles)
  exact this (mem_stations st)

/-- The DNF check keeps the lobby set as R81 gives it. -/
theorem State.Gathered.dnfCheckAt (h : s.Gathered) (place here : Nat) : (s.dnfCheckAt place here).Gathered := by
  have one : ∀ (u : State) (x : Station), u.Gathered → (u.dnfCheckOne x).Gathered := fun u x g => by
    unfold State.dnfCheckOne State.statusChanged; repeat' split
    · exact State.recomputeLobby_gathered
    all_goals exact g
  have all : ∀ (l : List Station) (u : State), u.Gathered → (l.foldl State.dnfCheckOne u).Gathered := by
    intro l
    induction l with
    | nil => exact fun _ g => g
    | cons a l ih => exact fun u g => ih _ (one u a g)
  unfold State.dnfCheckAt; split
  · exact all _ _ h
  · exact h

/-! ## The countdown -/

/-- The countdown waits: ARMED, or PROPOSING with a proposal still to be recorded, and Condition B holds (R94, R97). -/
structure State.Waits (m : StationSet) (s : State) : Prop where
  phase : s.session.phase = .armed ∨
    s.session.phase = .proposing ∧ ∃ z, member m z = true ∧ s.session.proposalOf z = none
  roster : s.session.roster = some m
  breach : s.breach = none

/-- What a re-evaluation comes to while the countdown waits: the lobby set alone is moved (R82). -/
structure State.Regathers (s t : State) : Prop where
  session : t.session = { s.session with lobbySet := t.session.lobbySet }
  motion : t.motion = s.motion
  straps : t.straps = s.straps
  aborted : t.port.latched .aborted = s.port.latched .aborted

theorem State.mem_others : z ∈ s.others m ↔ member m z = true ∧ z ≠ s.own := by
  simp [State.others, mem_members]

theorem State.others_of (h : t.straps = s.straps) : t.others m = s.others m := by
  unfold State.others State.own; rw [h]

theorem State.memberAgrees_live (h : s.memberAgrees m z = true) : s.live z = true := by
  unfold State.memberAgrees at h; simp only [Bool.and_eq_true] at h; exact h.1.1

/-- What one member's agreement hangs on (R94). -/
theorem State.memberAgrees_of (h : t.session = { s.session with lobbySet := t.session.lobbySet })
    (e : t.table.at z = s.table.at z) (l : t.live z = s.live z) : t.memberAgrees m z = s.memberAgrees m z := by
  unfold State.memberAgrees State.countsAsBeacon
  rw [e, l, h]; rfl

/-- Condition B holds exactly when the clock is LOCKED, the own ready flag is set and every other member agrees (R94,
R96). -/
theorem State.breach_none_iff : s.breach = none ↔ s.clock.state = .locked ∧ s.session.ready = true ∧
    ∀ z ∈ s.others (s.session.roster.getD 0), s.memberAgrees (s.session.roster.getD 0) z = true := by
  unfold State.breach State.failingMember
  by_cases c : s.clock.state = .locked
  · rw [if_neg (by simpa using c)]
    dsimp only
    cases f : (s.others (s.session.roster.getD 0)).find? (fun st => !s.memberAgrees (s.session.roster.getD 0) st) with
    | none => simp only [List.find?_eq_none, Bool.not_eq_true', Bool.not_eq_false] at f; simp [c]; exact fun _ => f
    | some z =>
      have h1 := List.find?_some f
      have h2 := List.mem_of_find?_eq_some f
      simp only [Bool.not_eq_true'] at h1
      refine ⟨nofun, fun h => absurd (h.2.2 z h2) ?_⟩
      rw [h1]; exact Bool.false_ne_true
  · rw [if_pos c]; simp [c]

/-- Recomputing the lobby set leaves Condition B as it stands. -/
theorem State.recomputeLobby_breach : s.recomputeLobby.breach = s.breach := by
  have agrees : ∀ m z, s.recomputeLobby.memberAgrees m z = s.memberAgrees m z :=
    fun m z => State.memberAgrees_of rfl rfl rfl
  have f : s.recomputeLobby.failingMember = s.failingMember := by
    unfold State.failingMember; simp only [agrees]; rfl
  unfold State.breach; rw [f]; rfl

/-- In PROPOSING and ARMED a breach of Condition B aborts the countdown (R96). -/
theorem State.reevaluate_abort (p : s.session.phase = .proposing ∨ s.session.phase = .armed)
    {c : AbortCause} {w : Option Station} (b : s.breach = some (c, w)) :
    s.reevaluate = s.recomputeLobby.abort c w := by
  unfold State.reevaluate
  rcases p with p | p
  · rw [p]; dsimp only; unfold State.evaluateProposing; dsimp only; rw [State.recomputeLobby_breach, b]
  · rw [p]; dsimp only; unfold State.evaluateArmed; dsimp only; rw [State.recomputeLobby_breach, b]

theorem State.Waits.countdown (w : s.Waits m) : s.session.phase = .proposing ∨ s.session.phase = .armed :=
  w.phase.elim .inr (fun h => .inl h.1)

/-- While the countdown waits, a re-evaluation recomputes the lobby set and goes on waiting (R82, R94, R97). -/
theorem State.Waits.reevaluate (w : s.Waits m) : s.reevaluate = s.recomputeLobby := by
  obtain ⟨p, ro, b⟩ := w
  unfold State.reevaluate
  rcases p with p | ⟨p, z, hz, hn⟩
  · rw [p]; dsimp only; unfold State.evaluateArmed; dsimp only; rw [State.recomputeLobby_breach, b]
  · have : s.recomputeLobby.proposalsComplete = false := by
      unfold State.proposalsComplete
      rw [List.all_eq_false]
      refine ⟨z, ?_, ?_⟩
      · show z ∈ members (s.session.roster.getD 0); rw [ro]; exact (mem_members _ _).mpr hz
      · show ¬ (s.session.proposalOf z).isSome = true; rw [hn]; simp
    rw [p]; dsimp only; unfold State.evaluateProposing; dsimp only
    rw [State.recomputeLobby_breach, b]; dsimp only; rw [this]; rfl

/-- It waits on where nothing it hangs on is moved. -/
theorem State.Waits.settles (w : s.Waits m) (k : s.Settles t) : t.Waits m := by
  obtain ⟨p, ro, b⟩ := w
  rw [State.breach_none_iff] at b
  refine ⟨by rw [k.session]; exact p, by rw [k.session]; exact ro, ?_⟩
  rw [State.breach_none_iff, k.state, k.session, State.others_of k.straps]
  refine ⟨b.1, b.2.1, fun z hz => ?_⟩
  rw [State.memberAgrees_of (s := s) (by rw [k.session]) (by rw [k.table]) (k.live z)]
  exact b.2.2 z hz

/-- It waits on where a sender moves that is no other roster member, or stays live. -/
theorem State.Waits.stirred (w : s.Waits m) (k : s.Stirred st r)
    (l : member m st = true → st ≠ s.own → r.live st = s.live st) : r.Waits m := by
  obtain ⟨p, ro, b⟩ := w
  rw [State.breach_none_iff] at b
  refine ⟨by rw [k.session]; exact p, by rw [k.session]; exact ro, ?_⟩
  rw [State.breach_none_iff, k.clock, k.session, State.others_of k.straps]
  refine ⟨b.1, b.2.1, fun z hz => ?_⟩
  have a := b.2.2 z hz
  rw [← a]
  rw [ro, Option.getD_some, State.mem_others] at hz
  by_cases e : z = st
  · subst e
    exact State.memberAgrees_of (by rw [k.session]) (k.entry (State.memberAgrees_live a)) (l hz.1 hz.2)
  · exact State.memberAgrees_of (by rw [k.session]) (k.table z e) (k.live z e)

/-- Where another roster member falls, Condition B fails by that member (R94 item 1, R96). -/
theorem State.Waits.falls (w : s.Waits m) (k : s.Stirred st r) (hm : member m st = true) (ho : st ≠ s.own)
    (l : r.live st = false) : r.breach = some (.member, some st) := by
  obtain ⟨p, ro, b⟩ := w
  rw [State.breach_none_iff, ro] at b
  have fails : r.memberAgrees m st = false := by
    unfold State.memberAgrees; rw [l]; rfl
  have f : r.failingMember = some st := by
    unfold State.failingMember
    dsimp only
    rw [k.session, ro, State.others_of k.straps]
    simp only [Option.getD_some] at b ⊢
    rw [List.find?_eq_some_iff_append]
    refine ⟨by rw [fails]; rfl, ?_⟩
    obtain ⟨a, c, e⟩ := List.append_of_mem (State.mem_others.mpr ⟨hm, ho⟩)
    refine ⟨a, c, e, fun z hz => ?_⟩
    have nd : (s.others m).Nodup := (stations_nodup.filter _).filter _
    rw [e, List.nodup_append] at nd
    have ne : z ≠ st := fun x => nd.2.2 z hz st List.mem_cons_self x
    have := b.2.2 z (by rw [e]; exact List.mem_append_left _ hz)
    rw [State.memberAgrees_of (s := s) (by rw [k.session]) (k.table z ne) (k.live z ne), this]; rfl
  unfold State.breach
  rw [k.clock, b.1, f]; simp

theorem State.Waits.recomputeLobby (w : s.Waits m) : s.recomputeLobby.Waits m :=
  ⟨w.phase, w.roster, State.recomputeLobby_breach.trans w.breach⟩

theorem State.Waits.inRace (w : s.Waits m) : s.session.phase.inRace = false := by
  rcases w.countdown with p | p <;> rw [p] <;> rfl

/-- While the countdown waits every other roster member is live (R94 item 1). -/
theorem State.Waits.live (w : s.Waits m) (h : member m z = true) (n : z ≠ s.own) : s.live z = true :=
  State.memberAgrees_live ((State.breach_none_iff.mp w.breach).2.2 z (by
    rw [w.roster, Option.getD_some, State.mem_others]; exact ⟨h, n⟩))

theorem State.Regathers.trans (h : s.Regathers t) (k : t.Regathers u) : s.Regathers u :=
  ⟨by rw [k.session, h.session], k.motion.trans h.motion, k.straps.trans h.straps, k.aborted.trans h.aborted⟩

theorem State.Stirs.regathers (h : s.Stirs t) : s.Regathers t :=
  ⟨by rw [h.session], h.motion, h.straps, h.latched _ (.inl (.refl _))⟩

theorem State.recomputeLobby_regathers : s.Regathers s.recomputeLobby := ⟨rfl, rfl, rfl, rfl⟩

/-! ## A lobby that may not propose -/

/-- The rule and the cleardown mark stand as a resolution leaves them (R83, R86). -/
def State.Ruled (s : State) : Prop :=
  s.session.rule = ruleOf s.commonOffer ∧
    (s.session.cleardownMark = true ↔ s.session.rule = none ∧ 2 ≤ (members s.session.lobbySet).length)

/-- What re-evaluations come to in a lobby where the player is not ready or an abort is held: the lobby set, the rule
and the cleardown mark alone are moved, with the events that tell of it (R82 to R86). -/
structure State.Resolves (s t : State) : Prop where
  session : t.session = { s.session with
    lobbySet := t.session.lobbySet, rule := t.session.rule, cleardownMark := t.session.cleardownMark }
  motion : t.motion = s.motion
  straps : t.straps = s.straps
  aborted : t.port.latched .aborted = s.port.latched .aborted
  change : s.port.latched .ruleChange = true ∨ t.session.rule ≠ s.session.rule → t.port.latched .ruleChange = true
  down : s.port.latched .cleardown = true ∨ (t.session.cleardownMark = true ∧ s.session.cleardownMark = false) →
    t.port.latched .cleardown = true

theorem State.Resolves.trans (h : s.Resolves t) (k : t.Resolves u) : s.Resolves u := by
  refine ⟨by rw [k.session, h.session], k.motion.trans h.motion, k.straps.trans h.straps,
    k.aborted.trans h.aborted, fun o => k.change ?_, fun o => k.down ?_⟩
  · by_cases e : u.session.rule = t.session.rule
    · exact .inl (h.change (by rwa [← e]))
    · exact .inr e
  · by_cases e : t.session.cleardownMark = true
    · exact .inl (h.down (o.imp_right fun i => ⟨e, i.2⟩))
    · rcases o with o | o
      · exact .inl (h.down (.inl o))
      · exact .inr ⟨o.1, by simpa using e⟩

theorem State.Stirs.resolves (h : s.Stirs t) : s.Resolves t := by
  refine ⟨by rw [h.session], h.motion, h.straps, h.latched _ (.inl (.refl _)), fun o => ?_, fun o => ?_⟩
  · rw [h.latched _ (.inr (.inl (.refl _)))]
    exact o.elim id fun i => absurd (by rw [h.session]) i
  · rw [h.latched _ (.inr (.inr (.refl _)))]
    refine o.elim id fun i => ?_
    rw [h.session, i.2] at i; cases i.1

theorem State.Ruled.settles (h : s.Ruled) (k : s.Settles t) : t.Ruled := by
  unfold State.Ruled
  rw [State.commonOffer_of k.straps (by rw [k.session]) (by rw [k.session]) k.table, k.session]; exact h

/-- In a lobby where the player is not ready or an abort is held, a re-evaluation resolves the rule and proposes
nothing (R82, R91). -/
theorem State.reevaluate_lobby (p : s.session.phase = .lobby)
    (q : s.session.ready = false ∨ s.session.abortHold ≠ none) : s.reevaluate = s.recomputeLobby.resolveRule := by
  unfold State.reevaluate; rw [p]; dsimp only; unfold State.evaluateLobby; dsimp only; rw [if_neg]
  unfold State.conditionA
  rw [State.resolveRule_moves]
  rcases q with q | q
  · have q' : s.recomputeLobby.session.ready = false := q
    simp [q']
  · have q' : s.recomputeLobby.session.abortHold ≠ none := q
    simp [q']

/-- The first two steps of a re-evaluation in LOBBY, said once (R82 to R86). -/
theorem State.resolves_lobby : s.Resolves s.recomputeLobby.resolveRule ∧ s.recomputeLobby.resolveRule.Ruled := by
  have latched : ∀ (p : Port) e e', (p.occur e none).latched e' = (p.latched e' || decide (e' = e)) :=
    fun _ _ _ => Port.occur_latched _ _ _ _
  refine ⟨⟨?_, ?_, ?_, ?_, fun o => ?_, fun o => ?_⟩, ?_, ?_⟩
  · rw [State.resolveRule_moves]; rfl
  · rw [State.resolveRule_moves]; rfl
  · rw [State.resolveRule_moves]; rfl
  · unfold State.resolveRule; dsimp only; repeat' split
    all_goals simp [State.signal, latched, State.recomputeLobby]
  · unfold State.resolveRule at o ⊢; dsimp only at o ⊢; repeat' split
    all_goals simp_all [State.signal, State.recomputeLobby]
  · rw [State.resolveRule_mark] at o
    unfold State.resolveRule size; dsimp only
    generalize ((ruleOf s.recomputeLobby.commonOffer).isNone &&
      decide (2 ≤ (members s.recomputeLobby.session.lobbySet).length)) = d at o ⊢
    rw [show s.recomputeLobby.session.cleardownMark = s.session.cleardownMark from rfl]
    cases e : s.session.cleardownMark <;> rw [e] at o <;> cases d <;> repeat' split
    all_goals simp_all [State.signal, State.recomputeLobby]
  · rw [State.resolveRule_moves]; rfl
  · rw [State.resolveRule_mark, State.resolveRule_moves]
    simp only [Bool.and_eq_true, Option.isNone_iff_eq_none, decide_eq_true_eq]
    rfl

/-- A cause that stirs such a lobby resolves it (R82). -/
theorem State.Resolves.reevaluate (h : s.Resolves t) (p : s.session.phase = .lobby)
    (q : s.session.ready = false ∨ s.session.abortHold ≠ none) (k : t.Stirs r) :
    t.Resolves r.reevaluate ∧ r.reevaluate.Ruled := by
  rw [State.reevaluate_lobby (s := r) (by rw [k.session, h.session]; exact p)
    (by rw [k.session, h.session]; exact q)]
  exact ⟨k.resolves.trans State.resolves_lobby.1, State.resolves_lobby.2⟩

theorem State.Resolves.phase_eq (h : s.Resolves t) : t.session.phase = s.session.phase := by rw [h.session]

/-- The judgement of every sender in such a lobby (R26, R82). -/
theorem State.judgeSenders_lobby (p : s.session.phase = .lobby)
    (q : s.session.ready = false ∨ s.session.abortHold ≠ none) :
    s.Resolves (s.judgeSenders phase) ∧ ((∃ st, s.moves phase st) → (s.judgeSenders phase).Ruled) := by
  have := foldl_judgeSender_induct (s := s) (phase := phase)
    (P := fun done u => s.Resolves u ∧ ((∃ st ∈ done, s.moves phase st) → u.Ruled)) stations stations_nodup
    ⟨State.Stirs.rfl.resolves, by simp⟩ (fun done x u n k e a => by
      by_cases m : u.moves phase x
      · obtain ⟨r, al, _, sr⟩ := State.judgeSender_moves m
        have sr := sr (by rw [a.1.phase_eq, p]; rfl)
        have := a.1.reevaluate p q sr.toStirs
        exact ⟨(a.1.trans this.1).trans al.toStirs.resolves, fun _ => this.2.settles al.settles⟩
      · have al := State.judgeSender_still m
        refine ⟨a.1.trans al.toStirs.resolves, fun ⟨st, i, m'⟩ => (a.2 ⟨st, ?_, m'⟩).settles al.settles⟩
        have : st ≠ x := fun e' => m (by subst e'; exact (State.moves_of k e).mpr m')
        simpa [this] using i)
  exact ⟨this.1, fun ⟨st, h⟩ => this.2 ⟨st, mem_stations st, h⟩⟩

/-! ## An abort -/

/-- The countdown of `s` has been aborted with this cause and station, and the lobby it fell back to stands resolved
(R96, R99). -/
structure State.Aborts (cause : AbortCause) (who : Option Station) (s t : State) : Prop where
  session : t.session = { s.session with
    phase := .lobby, roster := none, proposals := Vector.replicate 16 none, agreed := none, tag := 0, held := false,
    abortHold := some 250000, lastAbort := some (cause, who), lobbySet := t.session.lobbySet,
    rule := t.session.rule, cleardownMark := t.session.cleardownMark }
  motion : t.motion = { live := none, frozen := none }
  aborted : t.port.latched .aborted = true
  ruled : t.Ruled

variable {cause : AbortCause} {who : Option Station}

theorem State.Aborts.resolves (h : s.Aborts cause who t) (k : t.Resolves u) (n : u.Ruled) : s.Aborts cause who u :=
  ⟨by rw [k.session, h.session], k.motion.trans h.motion, k.aborted.trans h.aborted, n⟩

theorem State.Aborts.settles (h : s.Aborts cause who t) (k : t.Settles u) : s.Aborts cause who u :=
  h.resolves k.toStirs.resolves (h.ruled.settles k)

theorem State.Aborts.inRace (h : s.Aborts cause who t) : t.session.phase.inRace = false := by rw [h.session]; rfl

/-- The abort of a re-evaluation (R99). -/
theorem State.Regathers.abort (k : s.Regathers r) : s.Aborts cause who (r.recomputeLobby.abort cause who) := by
  unfold State.abort; dsimp only
  have := State.resolves_lobby (s := ((r.recomputeLobby.setSession { r.recomputeLobby.session.dissolve with
    phase := .lobby, abortHold := some Config.abortHold, lastAbort := some (cause, who) }).setMotion
      { live := none, frozen := none }).signal .aborted)
  refine ⟨?_, this.1.motion, this.1.aborted.trans ?_, this.2⟩
  · rw [this.1.session]
    obtain ⟨L, k⟩ : ∃ L, r.session = { s.session with lobbySet := L } := ⟨_, k.session⟩
    simp [State.recomputeLobby, Session.dissolve, k, State.signal]; rfl
  · exact (Port.occur_latched _ .aborted .aborted none).trans (by simp)

/-- A later cause finds the lobby with the abort held: it stays aborted, and resolved afresh (R82, R99). -/
theorem State.Aborts.reevaluate (h : s.Aborts cause who t) (k : t.Stirs r) : s.Aborts cause who r.reevaluate := by
  have := State.Stirs.rfl.resolves.reevaluate (by rw [h.session]) (.inr (by rw [h.session]; simp)) k
  exact h.resolves this.1 this.2

/-- Another roster member that falls LOST at this expiry. -/
def State.fallsOut (m : StationSet) (s : State) (st : Station) : Bool :=
  member m st && decide (st ≠ s.own) && decide ((s.link.at st).presence = .fading ∧
    (s.link.at st).count.toNat < s.store.on ∧ (s.link.at st).count.toNat < s.store.off ∧
    min ((s.link.at st).fade + 1) s.store.dropout = s.store.dropout)

/-- The judgement of every sender while the countdown waits: the lowest-numbered other roster member that falls aborts
it, and where none falls it waits on (R26, R34, R82, R96). -/
theorem State.Waits.judgeSenders (w : s.Waits m) :
    match stations.find? (s.fallsOut m) with
    | none => (s.judgeSenders phase).Waits m ∧ s.Regathers (s.judgeSenders phase)
    | some st => s.Aborts .member (some st) (s.judgeSenders phase) := by
  refine foldl_judgeSender_induct (s := s) (phase := phase) (P := fun done u => match done.find? (s.fallsOut m) with
    | none => u.Waits m ∧ s.Regathers u
    | some st => s.Aborts .member (some st) u) stations stations_nodup ⟨w, State.Stirs.rfl.regathers⟩ ?_
  intro done x u _ k e a
  rw [List.find?_append]
  generalize (List.find? _ done) = o at *
  cases o with
  | some st =>
    simp only [Option.some_or] at a ⊢
    by_cases mv : u.moves phase x
    · obtain ⟨r, al, _, sr⟩ := State.judgeSender_moves mv
      exact (a.reevaluate (sr a.inRace).toStirs).settles al.settles
    · exact a.settles (State.judgeSender_still mv).settles
  | none =>
    simp only [Option.none_or] at a ⊢
    have own : u.own = s.own := by unfold State.own; rw [a.2.straps]
    by_cases f : s.fallsOut m x = true
    · rw [List.find?_cons_of_pos f]
      simp only [State.fallsOut, Bool.and_eq_true, decide_eq_true_eq] at f
      obtain ⟨r, al, l, sr⟩ := State.judgeSender_moves (s := u) (st := x) (phase := phase)
        ((State.moves_of k e).mpr (.inr (.inl f.2)))
      have sr := sr a.1.inRace
      have b := a.1.falls sr f.1.1 (by rw [own]; exact f.1.2) (by rw [l, k, e]; simpa using f.2.2.1)
      rw [State.reevaluate_abort (by rw [sr.session]; exact a.1.countdown) b] at al
      exact (State.Regathers.abort (a.2.trans sr.toStirs.regathers)).settles al.settles
    · rw [List.find?_cons_of_neg f]
      simp only [List.find?_nil]
      by_cases mv : u.moves phase x
      · obtain ⟨r, al, l, sr⟩ := State.judgeSender_moves mv
        have sr := sr a.1.inRace
        have on := a.1.stirred sr (fun hm ho => by
          have lv := a.1.live hm ho
          rw [lv, l]
          rcases mv with mv | mv | mv | mv
          · simp [State.live, mv.1, Presence.live] at lv
          · rw [k, e] at mv
            refine absurd ?_ f
            simp only [State.fallsOut, Bool.and_eq_true, decide_eq_true_eq]
            exact ⟨⟨hm, by rw [← own]; exact ho⟩, mv⟩
          · simp [State.live, mv.1, Presence.live] at lv
          · simp [State.live, mv.1, Presence.live] at lv)
        rw [on.reevaluate] at al
        exact ⟨on.recomputeLobby.settles al.settles, ((a.2.trans sr.toStirs.regathers).trans
          State.recomputeLobby_regathers).trans al.toStirs.regathers⟩
      · have al := State.judgeSender_still mv
        exact ⟨a.1.settles al.settles, a.2.trans al.toStirs.regathers⟩

end Sys2Proof.Machine
end

