-- ==== Sys2Proof/Laws/PerInstr.lean ====
section
/-! SUPPORT. The family HostBytes: the bytes of every host command begin with its code and are as many as the command code
table gives for that code (11, "Command codes"; R187, R188). -/

namespace Sys2Proof.Laws

open Sys2Proof

/-- The statement of the family: a well-formed command's bytes are as many as its code calls for. -/
def HostBytes.Statement (i : Instr) : Prop :=
  i.wellFormed = true → ∀ code operands, commandBytes i = some (code :: operands) →
    operands.length = operandLength code operands

/-- The step bytes are two for each step. -/
theorem stepBytes_length (steps : List (Byte × Byte)) : (stepBytes steps).length = 2 * steps.length := by
  induction steps with
  | nil => rfl
  | cons x xs ih => simp only [stepBytes, List.length_cons, ih]; omega

/-- An event has no bytes a host sends. -/
theorem HostBytes.of_none {i : Instr} (h : commandBytes i = none) : HostBytes.Statement i := by
  intro _ _ _ k; rw [h] at k; exact absurd k (by simp)

/-- A command with these bytes. -/
theorem HostBytes.of_some {i : Instr} {code : Byte} {operands : List Byte} (h : commandBytes i = some (code :: operands))
    (k : operands.length = operandLength code operands) : HostBytes.Statement i := by
  intro _ c o e
  rw [h] at e
  cases e
  exact k

theorem HostBytes.resetAssert : HostBytes.Statement .resetAssert := HostBytes.of_none rfl
theorem HostBytes.resetRelease (station : Station) (rate auto : Bool) : HostBytes.Statement (.resetRelease station rate auto) := HostBytes.of_none rfl
theorem HostBytes.readStatus : HostBytes.Statement .readStatus := HostBytes.of_some rfl rfl
theorem HostBytes.readEvents : HostBytes.Statement .readEvents := HostBytes.of_some rfl rfl
theorem HostBytes.readEventsEnd : HostBytes.Statement .readEventsEnd := HostBytes.of_none rfl
theorem HostBytes.setEventMask (mask : BitVec 24) : HostBytes.Statement (.setEventMask mask) := HostBytes.of_some rfl rfl
theorem HostBytes.softReset : HostBytes.Statement .softReset := HostBytes.of_some rfl rfl
theorem HostBytes.softResetActs : HostBytes.Statement .softResetActs := HostBytes.of_none rfl
theorem HostBytes.configure (p : Parameters) : HostBytes.Statement (.configure p) :=
  HostBytes.of_some (code := 0x08) (operands := parameterBytes p) (by simp only [commandBytes])
    (by simp [operandLength, parameterBytes, Machine.be2, Machine.be4])
theorem HostBytes.setCourse (index : Byte) (length : BitVec 32) : HostBytes.Statement (.setCourse index length) := HostBytes.of_some rfl rfl
theorem HostBytes.setPattern (index : Byte) (steps : List (Byte × Byte)) :
    HostBytes.Statement (.setPattern index steps) := by
  intro w code operands e
  have hn : steps.length ≤ 255 := by simpa [Instr.wellFormed] using w
  cases e
  have hb : (Machine.byteOf steps.length).toNat = steps.length := by
    simp only [Machine.byteOf, BitVec.toNat_ofNat]; omega
  simp [operandLength, hb, stepBytes_length]
  omega
theorem HostBytes.join : HostBytes.Statement .join := HostBytes.of_some rfl rfl
theorem HostBytes.leave : HostBytes.Statement .leave := HostBytes.of_some rfl rfl
theorem HostBytes.newRace : HostBytes.Statement .newRace := HostBytes.of_some rfl rfl
theorem HostBytes.setOffer (courses laps options : Byte) : HostBytes.Statement (.setOffer courses laps options) := HostBytes.of_some rfl rfl
theorem HostBytes.setReady : HostBytes.Statement .setReady := HostBytes.of_some rfl rfl
theorem HostBytes.clearReady : HostBytes.Statement .clearReady := HostBytes.of_some rfl rfl
theorem HostBytes.readLobby : HostBytes.Statement .readLobby := HostBytes.of_some rfl rfl
theorem HostBytes.readCountdown : HostBytes.Statement .readCountdown := HostBytes.of_some rfl rfl
theorem HostBytes.readClock : HostBytes.Statement .readClock := HostBytes.of_some rfl rfl
theorem HostBytes.readPeer (station : Byte) : HostBytes.Statement (.readPeer station) := HostBytes.of_some rfl rfl
theorem HostBytes.freeze : HostBytes.Statement .freeze := HostBytes.of_some rfl rfl
theorem HostBytes.thaw : HostBytes.Statement .thaw := HostBytes.of_some rfl rfl
theorem HostBytes.clearFaults : HostBytes.Statement .clearFaults := HostBytes.of_some rfl rfl
theorem HostBytes.postCar (p : CarPost) : HostBytes.Statement (.postCar p) := HostBytes.of_some rfl rfl
theorem HostBytes.readCars : HostBytes.Statement .readCars := HostBytes.of_some rfl rfl
theorem HostBytes.proxOn : HostBytes.Statement .proxOn := HostBytes.of_some rfl rfl
theorem HostBytes.proxOff : HostBytes.Statement .proxOff := HostBytes.of_some rfl rfl
theorem HostBytes.readProx : HostBytes.Statement .readProx := HostBytes.of_some rfl rfl
theorem HostBytes.readStandings (start count : Byte) : HostBytes.Statement (.readStandings start count) := HostBytes.of_some rfl rfl
theorem HostBytes.readLine (place pattern : Byte) : HostBytes.Statement (.readLine place pattern) := HostBytes.of_some rfl rfl
theorem HostBytes.unknownCommand (code : Byte) : HostBytes.Statement (.unknownCommand code) := by
  intro w c operands e
  cases e
  have k : namesCommand code = false := by simpa [Instr.wellFormed] using w
  simp [namesCommand, commandCodes] at k
  simp [operandLength, k]

theorem HostBytes.truncated (clocks : Nat) : HostBytes.Statement (.truncated clocks) := HostBytes.of_none rfl
theorem HostBytes.responseEndedEarly : HostBytes.Statement .responseEndedEarly := HostBytes.of_none rfl
theorem HostBytes.framePeriodExpiry : HostBytes.Statement .framePeriodExpiry := HostBytes.of_none rfl
theorem HostBytes.lineActivity : HostBytes.Statement .lineActivity := HostBytes.of_none rfl
theorem HostBytes.startMark : HostBytes.Statement .startMark := HostBytes.of_none rfl
theorem HostBytes.lineIdle (run : List RxByte) : HostBytes.Statement (.lineIdle run) := HostBytes.of_none rfl
theorem HostBytes.deferralSlot : HostBytes.Statement .deferralSlot := HostBytes.of_none rfl
theorem HostBytes.collision (index : Nat) (echo : RxByte) : HostBytes.Statement (.collision index echo) := HostBytes.of_none rfl
theorem HostBytes.txSuccess (echo : RxByte) : HostBytes.Statement (.txSuccess echo) := HostBytes.of_none rfl
theorem HostBytes.windowExpiry : HostBytes.Statement .windowExpiry := HostBytes.of_none rfl
theorem HostBytes.debtPayment : HostBytes.Statement .debtPayment := HostBytes.of_none rfl
theorem HostBytes.freezeTimerExpiry : HostBytes.Statement .freezeTimerExpiry := HostBytes.of_none rfl
theorem HostBytes.abortHoldExpiry : HostBytes.Statement .abortHoldExpiry := HostBytes.of_none rfl
theorem HostBytes.sweepStep : HostBytes.Statement .sweepStep := HostBytes.of_none rfl
theorem HostBytes.startInstant : HostBytes.Statement .startInstant := HostBytes.of_none rfl
theorem HostBytes.finishDeadline : HostBytes.Statement .finishDeadline := HostBytes.of_none rfl
theorem HostBytes.raceLimit : HostBytes.Statement .raceLimit := HostBytes.of_none rfl
theorem HostBytes.transactionBegin : HostBytes.Statement .transactionBegin := HostBytes.of_none rfl
theorem HostBytes.transactionEnd : HostBytes.Statement .transactionEnd := HostBytes.of_none rfl

end Sys2Proof.Laws
end

