-- ==== Sys2Proof/Laws/Ranking.lean ====
section
/-! SUPPORT. Where an entry of a standings list comes from: ordering and arranging move starters and add none, and every
entry is formed from one ranked starter (R161, R167, R168). -/

namespace Sys2Proof.Machine

/-- Putting a starter in its place adds that starter alone. -/
theorem mem_insertBy (before : Ranked → Ranked → Bool) (x y : Ranked) (l : List Ranked) :
    y ∈ insertBy before x l ↔ y = x ∨ y ∈ l := by
  induction l with
  | nil => simp [insertBy]
  | cons z zs ih =>
    unfold insertBy
    split
    · simp
    · simp only [List.mem_cons, ih]
      tauto

/-- Ordering a list keeps its members. -/
@[simp] theorem mem_orderBy (before : Ranked → Ranked → Bool) (y : Ranked) (l : List Ranked) :
    y ∈ orderBy before l ↔ y ∈ l := by
  induction l with
  | nil => simp [orderBy]
  | cons z zs ih => simp [orderBy, mem_insertBy, ih]

/-- Every starter of an arranged list was in the list arranged (R161). -/
theorem mem_of_arrange {y : Ranked} {l : List Ranked} (h : y ∈ arrange l) : y ∈ l := by
  simp only [arrange, List.mem_append, mem_orderBy, List.mem_filter] at h
  tauto

/-- A ranked starter holds the status, the finish time and the distance of its starter record (R161, R167). -/
theorem State.mem_ranked {s : State} {copy : Option CarRecord} {t : Time} {y : Ranked} (h : y ∈ s.ranked copy t) :
    ∃ r, s.standings.at y.station = some r ∧ y =
      { station := y.station, status := r.status, finish := r.finish, distance := s.listDistance copy y.station r t } := by
  simp only [State.ranked, List.mem_filterMap] at h
  obtain ⟨st, -, h⟩ := h
  cases e : s.standings.at st with
  | none => simp [e] at h
  | some r =>
    simp only [e, Option.map_some, Option.some.injEq] at h
    subst h
    exact ⟨r, e, rfl⟩

/-- Every entry of a list is formed from one of its ranked starters (R167, R168). -/
theorem State.mem_standingsFrom {s : State} {first : Ranked} {own : Nat} {t : Time} {x : Standing} :
    ∀ {l : List Ranked} {place : Nat}, x ∈ s.standingsFrom first own t place l →
      ∃ y ∈ l, ∃ q, x = s.standingOf first own q t y := by
  intro l
  induction l with
  | nil => exact fun h => absurd h (List.not_mem_nil)
  | cons z zs ih =>
    intro place h
    rcases List.mem_cons.1 h with rfl | h
    · exact ⟨z, List.mem_cons_self, place, rfl⟩
    · obtain ⟨y, hy, q, e⟩ := ih h
      exact ⟨y, List.mem_cons_of_mem _ hy, q, e⟩

end Sys2Proof.Machine
end

