-- ==== Sys2Proof/Laws/Wire.lean ====
section
/-! SUPPORT. What the receiver reads back from each packed byte and from each body of a frame (11, "Formats"). -/

namespace Sys2Proof.Machine

/-- The flag byte of a beacon gives its phase and its four flags back. -/
theorem beaconFlags_read (b : Beacon) :
    ofBeaconPhase ((beaconFlags b).extractLsb' 0 2) = some b.phase ∧ (beaconFlags b).getLsbD 4 = b.ready ∧
      (beaconFlags b).getLsbD 5 = b.abort ∧ (beaconFlags b).getLsbD 6 = b.proposal.isSome ∧
      (beaconFlags b).getLsbD 7 = b.agreed.isSome := by
  unfold beaconFlags
  generalize b.phase = p
  generalize b.ready = r
  generalize b.abort = a
  generalize b.proposal.isSome = h
  generalize b.agreed.isSome = g
  cases p <;> (revert r a h g; decide)

/-- The flag byte of a car body gives its four flags back. -/
theorem carFlags_read (c : CarRecord) :
    (carFlags c).getLsbD 0 = c.inPit ∧ (carFlags c).getLsbD 1 = c.offTrack ∧ (carFlags c).getLsbD 2 = c.respawn ∧
      (carFlags c).getLsbD 3 = c.finish.isSome := by
  unfold carFlags
  generalize c.inPit = a
  generalize c.offTrack = b
  generalize c.respawn = d
  generalize c.finish.isSome = e
  revert a b d e
  decide

/-- The mask byte gives the lap mask and the option mask back. -/
theorem maskByte_read (o : Offer) :
    (maskByte o).extractLsb' 0 4 = o.laps ∧ (maskByte o).extractLsb' 4 2 = o.options := by
  unfold maskByte
  generalize o.laps = a
  generalize o.options = b
  revert a b
  decide

/-- The resolved-rule byte gives its field back. -/
theorem ruleByte_read (r : RuleField) : ofRuleByte (ruleByte r) = r := by
  obtain ⟨n, c, l, o⟩ := r
  revert n c l o
  decide

/-- The kind/sender byte gives the kind and the sender back. -/
theorem kindByte_read (f : Frame) :
    f.kindByte.extractLsb' 4 4 = f.body.kind ∧ (f.kindByte.extractLsb' 0 4).toFin = f.sender := by
  unfold Frame.kindByte
  generalize f.sender = st
  cases f.body <;> (simp only [Body.kind]; revert st; decide)

/-- A body within the limits of R5 and R6 is read back from its bytes. -/
theorem readBody_bytes (b : Body) (h : ∀ x, b = .beacon x → x.agreed.isSome = true → x.proposal.isSome = true)
    (k : ∀ c, b = .car c → c.lap.toNat ≤ 5 ∧ c.position.toNat ≤ 7999999) : readBody b.kind b.bytes = some b := by
  cases b with
  | beacon x =>
    obtain ⟨h1, h2, h3, h4, h5⟩ := beaconFlags_read x
    obtain ⟨m1, m2⟩ := maskByte_read x.offer
    simp only [readBody, Body.kind, Body.bytes, beaconBody, beaconHead, be2, List.cons_append, List.nil_append, readBeacon,
      h1, h2, h3, h4, h5, m1, m2, of2_be2, ruleByte_read]
    have h := h x rfl
    cases hp : x.proposal <;> cases hg : x.agreed
    case none.some => simp [hp, hg] at h
    all_goals
      simp [optionalTime, readBeaconTimes, be4, of4_be4]
      cases x
      simp_all
  | car c =>
    obtain ⟨l1, l2⟩ := k c rfl
    obtain ⟨f1, f2, f3, f4⟩ := carFlags_read c
    simp only [readBody, Body.kind, Body.bytes, carBody, carHead, be2, be3, be4, List.cons_append, List.nil_append, readCar,
      f1, f2, f3, f4, of2_be2, of3_be3, of4_be4, l1, l2, and_self, if_true]
    cases hf : c.finish <;>
      simp [optionalTime, readFinish, be4, of4_be4] <;>
      cases c <;> simp_all

end Sys2Proof.Machine
end

