-- ==== Sys2Proof/Tests/Slice0.lean ====
section
/-! SUPPORT. Tests on fixed values, each expected result taken from the spec's own worked examples and tables, and one witness
for each statement with hypotheses. -/

namespace Sys2Proof.Tests

/- One theorem after another: in the package as one text, many evaluations waiting at once would each hold a thread. -/
set_option Elab.async false

open Sys2Proof Sys2Proof.Machine

/-! ## Small states -/

/-- A cabinet after power-on under this station number. -/
def cab (st : Station) : State := State.powerOn { station := st, rate := false, auto := false } [] 0

/-- The same with a transaction open. -/
def hearing (s : State) : State := s.setPort { s.port with state := .command }

/-- The same in another phase. -/
def inPhase (p : Phase) (s : State) : State := s.setSession { s.session with phase := p }

/-- C at this value. -/
def atTime (c : Time) (s : State) : State := s.setClock { s.clock with t := c, k := 0 }

/-- A course of this length at index 0. -/
def onCourse (length : Nat) (s : State) : State := s.setStore { s.store with courses := s.store.courses.set 0 length }

/-- A rule: course 0, this lap code, CONTACT and DRAFT. -/
def ruleOn (code : BitVec 2) : Rule := { course := 0, lapCode := code, options := 3 }

/-- A car record. -/
def car (lap : Byte) (position : BitVec 24) (speed accel : BitVec 16) (t : Time) (finish : Option Time) : CarRecord :=
  { lap := lap, position := position, speed := speed, accel := accel, lateral := 0, inPit := false, offTrack := false,
    respawn := false, recordTime := t, finish := finish }

/-- A beacon of the lobby at rest with an offer of all ones. -/
def beacon : Beacon :=
  { phase := .lobby, ready := true, abort := false, offer := Offer.full, roster := 0x0028#16,
    rule := ruleField (some (ruleOn 3)), proposal := none, agreed := none }

/-- A race of stations 3 and 9 at station 3, tag 247, three laps of 412,500 tu from 41,207,000 µs. -/
def race : State :=
  let s := onCourse 412500 (cab 3)
  let s1 := s.setSession { s.session with
    phase := .racing, ready := true, roster := some 0x0208#16, rule := some (ruleOn 2), held := true,
    agreed := some 41207000#32, tag := 247, limit := some 1841207000#32 }
  let s2 := s1.setStandings { s1.standings with
    starters := buildAll fun st =>
      if st = 3 ∨ st = 9 then some { status := .running, finish := none, heldAt := none } else none }
  let s3 := s2.setTable (s2.table.put 9
    { beacon := none, car := some (247, car 1 0 4000 0 80000000#32 none), residual := 0, blendStart := 80000000#32,
      lastKind := .car })
  let s4 := s3.setMotion { live := some (car 0 412400 7000 0 80000000#32 none), frozen := none }
  atTime 80000000#32 (s4.setProx { s4.prox with timer := some 0 })

/-! ## Well-formed commands -/

theorem test_wf_refuses_256_steps : (Instr.setPattern 0 (List.replicate 256 (0x0F#8, 0#8))).wellFormed = false := by
  decide +kernel
theorem test_wf_takes_255_steps : (Instr.setPattern 0 (List.replicate 255 (0x0F#8, 0#8))).wellFormed = true := by
  decide +kernel
theorem test_wf_refuses_known_code : (Instr.unknownCommand 0x41#8).wellFormed = false := by decide +kernel
theorem test_wf_takes_unknown_code : (Instr.unknownCommand 0x42#8).wellFormed = true := by decide +kernel
theorem test_wf_refuses_byte_27 : (Instr.collision 27 { value := 0, framingError := true }).wellFormed = false := by
  decide +kernel

/-! ## The byte coding of host commands (11, "Command codes", "Operands") -/

theorem test_no_table_word (n w : Nat) : decodeTableWord n w = none := rfl
theorem test_bytes_setCourse :
    decodeCommand [0x09#8, 0x02#8, 0x00#8, 0x06#8, 0x4B#8, 0x54#8] = some (.setCourse 2 412500#32) := by decide +kernel
theorem test_bytes_readLine : decodeCommand [0x41#8, 0x03#8, 0x07#8] = some (.readLine 3 7) := by decide +kernel
theorem test_bytes_setPattern :
    decodeCommand [0x0A#8, 0x00#8, 0x02#8, 0x01#8, 0x03#8, 0x0F#8, 0x00#8] =
      some (.setPattern 0 [(0x01#8, 0x03#8), (0x0F#8, 0x00#8)]) := by decide +kernel
theorem test_bytes_unknown : decodeCommand [0x05#8] = some (.unknownCommand 0x05#8) := by decide +kernel

/-- A post of lap 2, position 412,490. -/
def post : CarPost :=
  { lap := 2, position := 412490, speed := 6250, accel := -400, lateral := -8, flags := 8, age := 500 }

theorem test_bytes_postCar :
    decodeCommand [0x30#8, 2, 0x06#8, 0x4B#8, 0x4A#8, 0x18#8, 0x6A#8, 0xFE#8, 0x70#8, 0xF8#8, 0x08#8, 0x01#8, 0xF4#8] =
      some (.postCar post) := by decide +kernel

/-! ## The race bus -/

/-- R7: the CRC over the ASCII bytes "123456789" is 0x29B1. -/
theorem test_crc_check_value :
    crc16 [0x31#8, 0x32#8, 0x33#8, 0x34#8, 0x35#8, 0x36#8, 0x37#8, 0x38#8, 0x39#8] = 0x29B1#16 := by decide +kernel

/-- R4, R5: the head of a LOBBY beacon of station 3 at stamp 1: sync, kind 1 and sender 3, tag, stamp, flags. -/
theorem test_beacon_head :
    (Frame.bytes { sender := 3, tag := 0, body := .beacon beacon } 1#32).take 13 =
      [0x5D#8, 0x13#8, 0x00#8, 0x00#8, 0x00#8, 0x00#8, 0x01#8, 0x11#8, 0xFF#8, 0x3F#8, 0x00#8, 0x28#8, 0x78#8] := by
  decide +kernel

/-- R18: a frame whose last CRC byte is wrong is bad. -/
theorem test_bad_crc :
    judgeRun (((Frame.bytes { sender := 3, tag := 0, body := .beacon beacon } 1#32).dropLast ++ [0x00#8]).map
      fun b => { value := b, framingError := false }) = none := by decide +kernel

/-- A frame F of station 5 on the line, stamped, with this frame in pending (01, "a period expiry while sending"). -/
def sending (attempt : Nat) (pending : Option Frame) : State :=
  let s := cab 5
  s.setBus { s.bus with
    tx := .sending { sender := 5, tag := 0, body := .beacon beacon } attempt (some 1#32) false pending,
    run := .collecting 1#32 true }

/-- The event's outcome, for tests. -/
def after (i : Instr) (s : State) : State :=
  match exec i s with
  | .next t => t
  | .fault _ => s
  | .refused _ => s

/-- 01, "a collision and a retry": the second byte's echo differs; attempt 2, WAIT_IDLE. -/
theorem test_collision_retries :
    (after (.collision 1 { value := 0x19#8, framingError := false }) (sending 1 none)).bus.tx =
      .waitIdle { sender := 5, tag := 0, body := .beacon beacon } 2 := by decide +kernel

/-- R13: a third collision drops the frame and latches FRAME_DROPPED. -/
theorem test_third_collision_drops :
    let t := after (.collision 1 { value := 0x19#8, framingError := false }) (sending 3 none)
    t.bus.tx = .idle ∧ t.bus.dropped = 1 ∧ t.port.latched .frameDropped = true := by decide +kernel

/-- R17, R18: the line going idle on a run that is no frame counts a bad frame. -/
theorem test_bad_frame_counted :
    let s := cab 3
    let t := after (.lineIdle [{ value := 0x5D#8, framingError := false }])
      (s.setBus { s.bus with run := .collecting 7#32 false })
    t.bus.badFrames = 1 ∧ t.bus.line = .idle := by decide +kernel

/-- R8, R10: a period expiry while sending replaces the frame in pending. -/
theorem test_expiry_while_sending :
    let s := inPhase .lobby (sending 2 none)
    (after .framePeriodExpiry (s.setBus { s.bus with period := some 0 })).bus.period = some 4000 := by decide +kernel

/-! ## Presence and the race clock -/

/-- R25: stamp 41,000,150, capture 41,000,100 and allowance 2 give +48. -/
theorem test_offset_sample : offsetSample 41000150#32 41000100#32 2 = 48#32 := by decide +kernel

/-- 03, "Worked steering cases": +12, −65. -/
theorem test_steering_forward : steeringTarget [40, -15, 310, -220, 25] = 12 := by decide +kernel
theorem test_steering_debt : steeringTarget [-90, -130, -40, -300, 60] = -65 := by decide +kernel

/-- R49: a debt of 2 µs is paid in 16 µs of T; C advances 14 µs. -/
theorem test_debt_of_two :
    let c : Clock := { Clock.powerOn with debt := 2 }
    let d := (List.range 16).foldl (fun x _ => if x.paymentDue then x.pay else x.advance) c
    d.t = 16#32 ∧ d.k = -2#32 ∧ d.debt = 0 ∧ d.payment = 0 := by decide +kernel

/-- 02, "a peer arrives, wavers and is lost": 4 frames in PRESENT give FADING with fade 1; 16 in ACQUIRING give PRESENT. -/
theorem test_present_fades :
    let s := cab 3
    ((s.putSender 7 { Sender.powerOn with presence := .present, count := 4 }).judgePresence .lobby 7).link.at 7 =
      { Sender.powerOn with presence := .fading, count := 4, fade := 1 } := by decide +kernel
theorem test_acquired :
    let s := cab 3
    let t := (s.putSender 7 { Sender.powerOn with presence := .acquiring, count := 16 }).judgePresence .lobby 7
    (t.link.at 7).presence = .present ∧ t.port.latched .peerUp = true ∧ t.port.details[0] = 7 := by decide +kernel

/-! ## The Receive Queue -/

/-- A car frame of a sender. -/
def carFrame (st : Station) (tag : Byte) : Frame := { sender := st, tag := tag, body := .car (car 0 0 0 0 0 none) }

/-- The queue of 04, "a full queue under freeze", before station 15's frame. -/
def fullQueue : State :=
  let s := cab 3
  s.setTable { s.table with
    queue := [carFrame 2 1, carFrame 4 2, carFrame 6 1, carFrame 9 1, carFrame 12 1, carFrame 13 1, carFrame 14 1,
      carFrame 1 1],
    freeze := some { view := 52310000#32, left := 13600 } }

theorem test_queue_overruns :
    let t := fullQueue.enqueue (carFrame 15 1)
    t.table.queue.map Frame.sender = [4, 6, 9, 12, 13, 14, 1, 15] ∧ t.table.overruns = 1 ∧
      t.port.latched .rxqOverrun = true ∧ t.port.details[8] = 2 := by decide +kernel
theorem test_queue_merges :
    let t := fullQueue.enqueue (carFrame 4 3)
    t.table.queue.map Frame.sender = [2, 4, 6, 9, 12, 13, 14, 1] ∧ t.table.merges = 1 ∧
      t.table.queue[1]? = some (carFrame 4 3) := by decide +kernel
/-- R66: the THAW answers a count of 8. -/
theorem test_thaw_counts :
    (after .thaw (hearing fullQueue)).port.response = [0x00#8, 0x08#8] := by decide +kernel

/-! ## Lobby and countdown -/

/-- 05, "a lobby resolves": courses {1, 2} with lap codes {0, 1, 2} and CONTACT give course 2, 3 laps, CONTACT. -/
theorem test_rule_of_common :
    ruleOf { courses := 0x06#8, laps := 0x7#4, options := 1#2 } =
      some { course := 2, lapCode := 2, options := 1 } := by decide +kernel
theorem test_rule_none : ruleOf { courses := 0#8, laps := 0x4#4, options := 1#2 } = none := by decide +kernel

/-- R201: alone with the defaults the rule is course 0, lap code 3, CONTACT and DRAFT. -/
theorem test_join_alone :
    (after .join (hearing (cab 3))).session.rule = some { course := 0, lapCode := 3, options := 3 } := by decide +kernel

/-- 06, "a three-station countdown": the proposal 41,204,100 rounded up is 41,205,000; the tag of 41,207,000 is 247. -/
theorem test_proposal_rounds_up : proposalAt 36204100#32 5000000 = 41205000#32 := by decide +kernel
theorem test_session_tag : sessionTag 41207000#32 = 247#8 := by decide +kernel

/-- Station 9 in LOBBY with stations 3 and 7 gathered, ready, and its clock LOCKED (06, "a three-station countdown"). -/
def gathered : State :=
  let b : Beacon := { beacon with roster := 0x0288#16 }
  let s := inPhase .lobby (atTime 36203200#32 (cab 9))
  let s1 := (s.putSender 3 { Sender.powerOn with presence := .present }).putSender 7
    { Sender.powerOn with presence := .fading, fade := 1 }
  let s2 := s1.setTable ((s1.table.put 3
    { Entry.empty with beacon := some (0, b), lastKind := .beacon }).put 7
    { Entry.empty with beacon := some (0, b), lastKind := .beacon })
  s2.setClock { s2.clock with state := .locked }

/-- SET READY meets Condition A: PROPOSING, roster {3, 7, 9}, own proposal 41,204,000. -/
theorem test_ready_starts_the_countdown :
    let t := after .setReady (hearing gathered)
    t.session.phase = .proposing ∧ t.session.roster = some 0x0288#16 ∧
      t.session.proposalOf 9 = some 41204000#32 ∧ t.session.proposalOf 3 = none := by decide +kernel

/-! ## Car motion (07) -/

/-- The track of 07: L = 412,500 tu. -/
def track (laps : Nat) : Track := { length := 412500, laps := laps, horizon := 250000 }

/-- "crossing the lap line": 1,237,699 tu at 6,218 cm/s; held at 1,237,499 tu in a 3-lap race. -/
theorem test_lap_line :
    (track 5).distance (car 2 412200 6250 (-400) 0 none) 80000#32 = 1237699 ∧
      (track 5).speed (car 2 412200 6250 (-400) 0 none) 80000#32 = 6218 ∧
      (track 3).distance (car 2 412200 6250 (-400) 0 none) 80000#32 = 1237499 := by decide +kernel

/-- "a car braking to a halt": 30 tu, halted. -/
theorem test_braking_halt :
    (track 3).distance (car 0 0 300 (-1500) 0 none) 250000#32 = 30 ∧
      (track 3).speed (car 0 0 300 (-1500) 0 none) 250000#32 = 0 := by decide +kernel

/-- "two records blended in turn": terms 22, 18, 21, −22; presented 600,427 tu. -/
theorem test_blend_terms :
    blendTerm 100000 45 10040000#32 10090000#32 = 22 ∧ blendTerm 100000 45 10040000#32 10100000#32 = 18 ∧
      blendTerm 100000 28 10100000#32 10125000#32 = 21 ∧ blendTerm 100000 (-37) 0#32 40000#32 = -22 := by decide +kernel

/-- "the own car crosses the finish": the third post is held at 412,499 tu of lap 2 and clamped. -/
theorem test_post_is_held :
    let s := atTime 124583000#32 (race.setMotion { live := none, frozen := none })
    let p : CarPost := { lap := 3, position := 20, speed := 0, accel := 0, lateral := 0, flags := 0, age := 2000 }
    (s.postedRecord p).lap = 2 ∧ (s.postedRecord p).position = 412499 ∧
      (s.postedRecord p).recordTime = 124581000#32 ∧ s.postClamped p = true := by decide +kernel
/-- The fourth post is the own finish: lap 3, position 0, finish time 124,584,500, not clamped. -/
theorem test_own_finish :
    let s := atTime 124585000#32 (race.setMotion { live := none, frozen := none })
    let p : CarPost := { lap := 3, position := 40, speed := 0, accel := 0, lateral := 0, flags := 8, age := 500 }
    let t := after (.postCar p) (hearing s)
    t.motion.live = some (car 3 0 0 0 124584500#32 (some 124584500#32)) ∧ t.session.phase = .finished ∧
      s.postClamped p = false := by decide +kernel
/-- The fifth post comes after the finish: lap 3 and position 0 are kept, and the mark is clear; R110 and step 3 of R111 set
it for a lap above the race laps. -/
theorem test_post_after_finish :
    let s := atTime 124590000#32 ((inPhase .finished race).setMotion
      { live := some (car 3 0 0 0 124584500#32 (some 124584500#32)), frozen := none })
    let p : CarPost := { lap := 3, position := 900, speed := 2000, accel := 0, lateral := 0, flags := 0, age := 0 }
    s.postedRecord p = car 3 0 2000 0 124590000#32 (some 124584500#32) ∧ s.postClamped p = false ∧
      s.postClamped { p with lap := 4 } = true := by decide +kernel

/-! ## Proximity (08) -/

/-- "a contact across the lap line": gaps 250, −90, −580 and −250. -/
theorem test_track_gaps :
    trackGap 412500 412400 150 = 250 ∧ trackGap 412500 640 550 = -90 ∧ trackGap 412500 2000 1420 = -580 ∧
      trackGap 412500 150 412400 = -250 := by decide +kernel

/-- The row at 80,500,000 µs: CLEAR becomes CONTACT with closing +3,000; the row at 80,300,000 µs holds DRAFT. -/
theorem test_proximity_rows :
    race.judgeProx { gap := 250, across := 12, closing := 3000 } .clear = .contact ∧
      race.judgeProx { gap := 850, across := 13, closing := 3000 } .draft = .draft ∧
      race.judgeProx { gap := 400, across := 24, closing := 3000 } .draft = .clear ∧
      race.judgeProx { gap := -580, across := 9, closing := 3000 } .contact = .clear := by decide +kernel

/-- A sweep step from station 0 evaluates station 9 and leaves the sweep position at 10. -/
theorem test_sweep_step :
    (after .sweepStep race).prox.position = 10 ∧ ((after .sweepStep race).prox.at 9).state = .contact ∧
      ((after .sweepStep race).prox.at 9).closing = 3000 := by decide +kernel

/-! ## Standings (09) -/

/-- The deadline is drawn from the earliest finish time held: 118,900,200 + 30 s. -/
theorem test_deadline_of_earliest :
    let x := (Session.powerOn 3).noteFinish 118900400#32 30
    x.deadline = some 148900400#32 ∧ (x.noteFinish 118900200#32 30).deadline = some 148900200#32 ∧
      (x.noteFinish 118900500#32 30).earliest = some 118900400#32 := by decide +kernel

/-- GAPD and DELTA of station 14: 387 m; its elapsed time 98,793 ms; station 4's GAPT is 200 µs, 0 ms. -/
theorem test_comparison_values :
    let leader : Ranked := { station := 3, status := .finished, finish := some 118900200#32, distance := 1237500 }
    let second : Ranked := { station := 4, status := .finished, finish := some 118900400#32, distance := 1237500 }
    let third : Ranked := { station := 14, status := .running, finish := none, distance := 1198760 }
    gapTOf leader second = some 0 ∧ gapDOf leader third = some 387 ∧ deltaOf 1237500 third = some 387 ∧
      race.elapsedOf third 140000000#32 = some 98793 := by decide +kernel

/-! ## The Readout Formatter (10) -/

/-- Place 1 of the worked final list. -/
def winner : Standing :=
  { place := 1, station := 3, status := .finished, distance := 1237500, lap := 3, elapsed := some 77693,
    finish := some 118900200#32, gapT := some 0, gapD := none, delta := some 0 }

/-- Place 3 of the worked final list. -/
def third : Standing :=
  { place := 3, station := 14, status := .unfinished, distance := 1236980, lap := 2, elapsed := some 107693,
    finish := none, gapT := none, gapD := some 5, delta := some 5 }

/-- The line " 1:23.45" of an elapsed time of 83,456 ms. -/
theorem test_elapsed_line :
    (runPattern { winner with elapsed := some 83456 }
      [.sel .elapsed, .zs 1, .cp 1, .lit 0x3A#8, .cp 2, .lit 0x2E#8, .cp 2, .sk 1]).line =
      [0x20#8, 0x31#8, 0x3A#8, 0x32#8, 0x33#8, 0x2E#8, 0x34#8, 0x35#8] := by decide +kernel

/-- "0117693" with SHORT. -/
theorem test_short_line :
    let x := runPattern winner [.sel .elapsed, .cp 8]
    x.line = [0x30#8, 0x31#8, 0x31#8, 0x37#8, 0x36#8, 0x39#8, 0x33#8] ∧ x.short = true ∧ x.trunc = false := by decide +kernel

/-- "+0000005+0000005+0147693" with TRUNC. -/
theorem test_trunc_line :
    let x := runPattern third
      [.sel .delta, .fsign, .cp 7, .sel .gapD, .cp 7, .sel .elapsed, .cp 7, .lit 0x2A#8, .lit 0x2A#8]
    x.line.length = 24 ∧ x.trunc = true ∧ x.short = false ∧ x.line.drop 16 =
      [0x2B#8, 0x30#8, 0x31#8, 0x34#8, 0x37#8, 0x36#8, 0x39#8, 0x33#8] := by decide +kernel

/-- "-": the jump passes over CP 7 and END. -/
theorem test_jump_line :
    (runPattern winner [.sel .gapD, .ja 2, .cp 7, .stop, .lit 0x2D#8]).line = [0x2D#8] := by decide +kernel

/-- Pattern 3 on place 3 of the final list gives " 3       -5m". -/
theorem test_final_list_line :
    (runPattern third
      [.sel .place, .zs 1, .cp 1, .lit 0x20#8, .sel .gapD, .ja 5, .float 0x2D#8, .zs 6, .cp 1, .lit 0x6D#8, .stop,
        .sel .gapT, .ja 7, .lit 0x2B#8, .sk 2, .zs 1, .cp 1, .lit 0x2E#8, .cp 3, .stop, .lit 0x2D#8]).line =
      [0x20#8, 0x33#8, 0x20#8, 0x20#8, 0x20#8, 0x20#8, 0x20#8, 0x20#8, 0x20#8, 0x2D#8, 0x35#8, 0x6D#8] := by
  decide +kernel

/-! ## The Host Port (11) -/

/-- The defaults of the store as operands. -/
def defaults : Parameters :=
  { period := 4000, window := 16, on := 12, off := 6, dropout := 3, horizon := 250000, blend := 100000, snap := 500,
    startLead := 5000000, finishWindow := 30, dnfTimeout := 10, linkDelay := 2, slew := 100, lockBound := 250,
    courses := 0xFF#8, laps := 0x0F#8, options := 3, sweepGap := 500, contactLength := 450, contactWidth := 20,
    draftLength := 3000, draftWidth := 10 }

/-- "clamping a configuration": 4750, 40, 40, 35 and 0 are stored as 4500, 32, 32, 32 and 1. -/
theorem test_configure_clamps :
    let p := { defaults with period := 4750, window := 40, on := 40, off := 35, dropout := 0 }
    let t := after (.configure p) (hearing (cab 3))
    t.store = { Store.default with period := 4500, window := 32, on := 32, off := 32, dropout := 1 } ∧
      t.link.window = 144000 ∧ t.port.response.getLast? = some 1 := by decide +kernel
theorem test_configure_keeps_defaults :
    let t := after (.configure defaults) (hearing (cab 3))
    t.store = Store.default ∧ t.port.response.getLast? = some 0 := by decide +kernel

/-- "reading the latch while a peer is lost": PEER_LOST occurs again during the response and stays latched. -/
theorem test_read_events :
    let s := hearing ((cab 3).signalAt .peerLost 9)
    let t := after .readEventsEnd ((after .readEvents (s.signalAt .peerUp 7)).signalAt .peerLost 12)
    t.port.latched .peerLost = true ∧ t.port.latched .peerUp = false ∧ t.port.details[1] = 12 := by decide +kernel

/-- R189: a rise of HSEL with no rising edge of HCLK is not a transaction. -/
theorem test_no_clock_no_transaction :
    (after (.truncated 0) (hearing (cab 3))).port.latched .truncated = false ∧
      (after (.truncated 1) (hearing (cab 3))).port.latched .truncated = true := by decide +kernel

/-- SET COURSE 2, 412500 with some of its bytes in, the next to come at once. -/
def courseUnderWay (held : List Byte) (next : Byte) (rest : List HdiByte) : State :=
  (cab 3).setPort { (cab 3).port with
    state := if held = [] then .command else .operands, hdi := { wait := 0, value := next } :: rest, buffer := held,
    counted := held.length }

/-- The state a byte clocked in leaves. -/
def afterByte (s : State) : State :=
  match s.clockByte with
  | .next t => t
  | .fault _ => s
  | .refused _ => s

/-- R187: OPERANDS from the command byte of SET COURSE, HDO still 0xFF. -/
theorem test_command_byte_leads_to_operands :
    let t := afterByte (courseUnderWay [] 0x09#8 [{ wait := 3, value := 0x02#8 }])
    t.port.state = .operands ∧ t.port.buffer = [0x09#8] ∧ t.hdo 0 = some 0xFF#8 := by decide +kernel

/-- R187, R188: the last operand byte is the command instant. -/
theorem test_last_operand_byte_acts :
    let t := afterByte (courseUnderWay [0x09#8, 0x02#8, 0x00#8, 0x06#8, 0x4B#8] 0x54#8 [])
    t.port.state = .response ∧ t.store.courses[2] = 412500 ∧ t.port.buffer = [] := by decide +kernel

/-- R191: a byte that names no command is its own command instant. -/
theorem test_unknown_byte_discards :
    (afterByte (courseUnderWay [] 0x42#8 [{ wait := 0, value := 0x09#8 }])).port.state = .discard := by decide +kernel

/-- R189: a rise of HSEL between two operand bytes latches TRUNCATED, and a timer expiry there leaves the bytes alone. -/
theorem test_between_operand_bytes :
    let s := courseUnderWay [0x09#8, 0x02#8] 0x00#8 []
    let t := after (.truncated 16) s
    let u := after .freezeTimerExpiry (s.setTable { s.table with freeze := some { view := 0, left := 0 } })
    t.port.latched .truncated = true ∧ t.port.state = .idle ∧ u.port.latched .freezeExpired = true ∧
      u.port.state = .operands ∧ u.port.buffer = [0x09#8, 0x02#8] := by
  decide +kernel

/-- R172: a step count of 200 ends the operands after the 402nd byte, and SET PATTERN is refused with OPERAND. -/
theorem test_set_pattern_counts_402 :
    let held : List Byte := [0x0A#8, 0x00#8, 0xC8#8] ++ List.replicate 48 0x0F#8
    let s := courseUnderWay held 0x0F#8 []
    let t := afterByte (s.setPort { s.port with counted := 401 })
    let u := afterByte (s.setPort { s.port with counted := 402 })
    t.port.state = .operands ∧ t.port.buffer = held ∧ t.port.counted = 402 ∧ u.port.response = [0x03#8] := by
  decide +kernel

/-- R187, R200: HDO is 0xFF while a command byte is clocked in, and released while RESET is low. -/
theorem test_hdo :
    (hearing (cab 3)).hdo 0 = some 0xFF#8 ∧ (after .resetAssert (hearing (cab 3))).hdo 0 = none := by decide +kernel

/-! ## Witnesses: for each statement with hypotheses, values that meet them together -/

/-- A cabinet in a transaction. -/
def open3 : State := hearing (cab 3)

/-- A cabinet in LOBBY, in a transaction. -/
def lobby3 : State := hearing (inPhase .lobby (cab 3))

/-- The race, in a transaction. -/
def race3 : State := hearing race

theorem open3_hears {i : Instr} {bytes : List Byte} (h : commandBytes i = some bytes) : open3.hears i :=
  ⟨rfl, Port.takes_first rfl rfl h⟩
theorem lobby3_hears {i : Instr} {bytes : List Byte} (h : commandBytes i = some bytes) : lobby3.hears i :=
  ⟨rfl, Port.takes_first rfl rfl h⟩
theorem race3_hears {i : Instr} {bytes : List Byte} (h : commandBytes i = some bytes) : race3.hears i :=
  ⟨rfl, Port.takes_first rfl rfl h⟩

theorem witness_StepRunsTheFrontCommand :
    ((cab 3).setPending [.readStatus, .join]).pending = .readStatus :: [.join] := rfl

theorem witness_IdleStep_tick :
    (cab 3).pending = [] ∧ (cab 3).inReset = false ∧ (cab 3).dueEvents = [] ∧ (cab 3).port.byteDue = false ∧
      (cab 3).paymentDue = false := by
  decide +kernel
theorem witness_IdleStep_event :
    let s := (cab 3).setLink { (cab 3).link with window := 0 }
    s.pending = [] ∧ s.inReset = false ∧ s.dueEvents ≠ [] := by decide +kernel
theorem witness_IdleStep_payment :
    let s := (cab 3).setClock { (cab 3).clock with debt := 1, payment := 7 }
    s.pending = [] ∧ s.inReset = false ∧ s.dueEvents = [] ∧ s.port.byteDue = false ∧ s.paymentDue = true := by
  decide +kernel
theorem witness_IdleStep_byte :
    let s := courseUnderWay [0x09#8] 0x02#8 []
    s.pending = [] ∧ s.inReset = false ∧ s.dueEvents = [] ∧ s.port.byteDue = true := by decide +kernel
theorem witness_IdleStep_byte_or_event :
    let s := courseUnderWay [0x09#8] 0x02#8 []
    (s.setLink { s.link with window := 0 }).dueEvents ≠ [] ∧ s.port.byteDue = true := by decide +kernel
theorem witness_IdleStep_held : ((cab 3).setInReset true).pending = [] ∧ ((cab 3).setInReset true).inReset = true :=
  ⟨rfl, rfl⟩

theorem witness_HeldInReset :
    ((cab 3).setInReset true).inReset = true ∧ (∀ st r a, Instr.readStatus ≠ .resetRelease st r a) ∧
      Instr.readStatus ≠ .resetAssert := ⟨rfl, nofun, nofun⟩
theorem witness_HeldInReset_ignored :
    commandBytes .readStatus = some [0x01] ∧ ¬ (cab 3).hears .readStatus ∧
      ¬ (courseUnderWay [0x09#8] 0x02#8 []).hears .readStatus :=
  ⟨rfl, fun ⟨_, h⟩ => Bool.noConfusion h, fun ⟨_, h⟩ => Bool.noConfusion h⟩

theorem witness_SoftReset :
    let s := (cab 3).setPort { (cab 3).port with state := .response, softReset := true }
    s.inReset = false ∧ s.port.softReset = true ∧ s.port.answered = true := ⟨rfl, rfl, rfl⟩

theorem witness_TransactionBegin : (cab 3).inReset = false ∧ (cab 3).port.state = .idle := ⟨rfl, rfl⟩
theorem witness_HostByte :
    let s := courseUnderWay [0x09#8, 0x02#8, 0x00#8, 0x06#8] 0x4B#8 [{ wait := 1, value := 0x54#8 }]
    s.inReset = false ∧ s.port.ready = true ∧ decodeCommand (s.port.bytes ++ [0x4B#8]) = none ∧
      decodeCommand (s.port.bytes ++ [0x4B#8] ++ [0x54#8]) = some (.setCourse 2 412500) := by decide +kernel
/-- A command row is heard in COMMAND and, with its first bytes in, in OPERANDS. -/
theorem witness_CommandInstant :
    open3.hears (.setCourse 2 412500) ∧ (courseUnderWay [0x09#8, 0x02#8] 0x00#8 []).hears (.setCourse 2 412500) ∧
      (Instr.setCourse 2 412500).wellFormed = true ∧ open3.hears (.unknownCommand 0x42#8) :=
  ⟨open3_hears rfl, ⟨rfl, by decide +kernel⟩, rfl, open3_hears rfl⟩
theorem witness_OtherEvents :
    exec .lineActivity open3 = .next open3 ∧ commandBytes .lineActivity = none := ⟨rfl, rfl⟩
theorem witness_TransactionOk :
    (courseUnderWay [0x09#8, 0x02#8] 0x00#8 []).port.TransactionOk ∧ open3.port.TransactionOk := by
  constructor
  · exact ⟨by decide, nofun, nofun, fun _ => ⟨0x09#8, [0x02#8], by decide, by decide, by decide⟩⟩
  · exact ⟨rfl, nofun, fun _ => rfl, nofun⟩
theorem witness_HostBytes_spelled :
    decodeCommand [0x41#8, 0x03#8, 0x07#8] = some (.readLine 3 7) ∧ operandLength 0x0A [0x00#8, 0xC8#8] = 402 := by
  decide +kernel
theorem witness_TransactionEnd :
    let s := (cab 3).setPort { (cab 3).port with state := .discard }
    s.inReset = false ∧ s.port.answered = true ∧ s.port.softReset = false := ⟨rfl, rfl, rfl⟩

theorem witness_UnknownCommand :
    namesCommand 0x00#8 = false ∧ namesCommand 0x42#8 = false ∧ namesCommand 0xFF#8 = false := by decide
theorem witness_UnknownCommand_discards :
    let s := (cab 3).setPort { (cab 3).port with state := .discard }
    s.inReset = false ∧ s.port.state = .discard ∧ s.port.softReset = false ∧ commandBytes .join = some [0x10] :=
  ⟨rfl, rfl, rfl, rfl⟩
theorem witness_SetEventMask :
    open3.hears (.setEventMask 3) ∧ exec .lineActivity open3 = .next open3 ∧ ¬ open3.resetBy .lineActivity ∧
      ∀ mask, Instr.lineActivity ≠ .setEventMask mask := by
  refine ⟨open3_hears rfl, rfl, ?_, nofun⟩
  rintro (⟨_, _, _, h⟩ | ⟨h, _⟩)
  · cases h
  · cases h

theorem witness_ReadEventsEnd :
    let s := (cab 3).setPort { (cab 3).port with state := .response, readEvents := .sending 3#20 }
    s.inReset = false ∧ s.port.state = .response ∧ s.port.readEvents = .sending 3#20 := ⟨rfl, rfl, rfl⟩

theorem witness_EventsLatchAndStay :
    let s := (cab 3).signal .armed
    exec .transactionBegin s = .next (s.setPort s.port.begin) ∧ Instr.transactionBegin ≠ .readEventsEnd ∧
      ¬ s.resetBy .transactionBegin ∧ s.port.latched .armed = true := by
  refine ⟨rfl, nofun, ?_, rfl⟩
  rintro (⟨_, _, _, h⟩ | ⟨h, _⟩)
  · cases h
  · cases h

theorem witness_ReadClock_racing :
    race3.session.phase.inRace = true ∧ race3.session.agreed = some 41207000#32 := ⟨rfl, rfl⟩
theorem witness_ReadClock_results :
    let s := inPhase .results (race3.setStandings { race3.standings with overAt := some 80000000#32 })
    s.hears .readClock ∧ s.session.phase = .results ∧ s.session.agreed = some 41207000#32 ∧
      s.standings.overAt = some 80000000#32 := ⟨⟨rfl, rfl⟩, rfl, rfl, rfl⟩

theorem witness_ReadsChangeNothing :
    (15#8).toNat ≤ 15 ∧ 1 ≤ (16#8).toNat ∧ (16#8).toNat ≤ 16 ∧ (1 ≤ (1#8).toNat ∧ (1#8).toNat ≤ 16) := by decide
theorem witness_ReadCars :
    lobby3.hears .readCars ∧ lobby3.session.phase = .lobby ∧ race3.hears .readCars ∧ race3.session.phase.hasStandings = true ∧
      (stations.filter fun st => (race3.standings.at st).isSome) = [3, 9] := by
  exact ⟨lobby3_hears rfl, rfl, race3_hears rfl, rfl, by decide +kernel⟩
theorem witness_ReadStandings :
    let s := inPhase .results (race3.setStandings
      { race3.standings with overAt := some 80000000#32, final := some [winner] })
    s.hears (.readStandings 1 16) ∧ s.session.phase = .results ∧ s.standings.overAt = some 80000000#32 ∧ s.standings.final = some [winner] ∧
      lobby3.session.phase.hasStandings = false ∧ race3.session.phase.inRace = true :=
  ⟨⟨rfl, rfl⟩, rfl, rfl, rfl, rfl, rfl⟩

theorem witness_Refused_phase : lobby3.hears .newRace ∧ lobby3.session.phase ≠ .offline ∧ lobby3.session.phase ≠ .results :=
  ⟨lobby3_hears rfl, nofun, nofun⟩
theorem witness_Refused_locked :
    let s := lobby3.setReadyFlag true
    s.hears (.setOffer 1 1 0) ∧ s.session.phase = .lobby ∧ s.session.ready = true := ⟨⟨rfl, rfl⟩, rfl, rfl⟩
theorem witness_Refused_ready : race3.session.phase.hasStandings = true := rfl
theorem witness_Refused_busy :
    let s := lobby3.beginFreeze
    s.hears .freeze ∧ s.session.phase ≠ .offline ∧ s.table.freeze.isSome = true := ⟨⟨rfl, rfl⟩, nofun, rfl⟩
theorem witness_Refused_operand : 15 < (16#8).toNat ∧ 16 < (17#8).toNat ∧ 7 < (8#8).toNat := by decide

theorem witness_Configure : open3.hears (.configure defaults) ∧ open3.session.phase = .offline := ⟨open3_hears rfl, rfl⟩
theorem witness_SetCourse : open3.hears (.setCourse 7 412500) ∧ open3.session.phase = .offline ∧ (7#8).toNat ≤ 7 :=
  ⟨open3_hears rfl, rfl, by decide⟩
theorem witness_SetCourse_refused :
    open3.session.phase = .offline ∧ 7 < (8#8).toNat ∧ lobby3.session.phase ≠ .offline :=
  ⟨rfl, by decide, nofun⟩
theorem witness_SetPattern :
    (7#8).toNat ≤ 7 ∧ 1 ≤ (List.replicate 24 (0x01#8, 6#8)).length ∧ (List.replicate 24 (0x01#8, 6#8)).length ≤ 24 ∧
      ∀ x ∈ List.replicate 24 (0x01#8, 6#8), 1 ≤ x.1.toNat ∧ x.1.toNat ≤ 15 ∧ (x.1 = 1#8 → x.2.toNat ≤ 6) := by
  refine ⟨by decide, by decide, by decide, fun x h => ?_⟩
  rw [(List.mem_replicate.mp h).2]
  decide

theorem witness_Join : open3.hears .join ∧ open3.session.phase = .offline ∧ open3.session.ready = false :=
  ⟨open3_hears rfl, rfl, rfl⟩

theorem queueOk_empty : (cab 3).table.QueueOk := ⟨by decide, by decide, fun _ => rfl⟩
theorem queueOk_full : fullQueue.table.QueueOk := ⟨by decide +kernel, by decide +kernel, nofun⟩

theorem witness_Leave_offline : open3.hears .leave ∧ open3.session.phase = .offline := ⟨open3_hears rfl, rfl⟩

theorem witness_Leave : race3.hears .leave ∧ race3.session.phase ≠ .offline ∧ race3.table.QueueOk :=
  ⟨race3_hears rfl, nofun, ⟨by decide, by decide, fun _ => rfl⟩⟩
theorem witness_Leave_frozen :
    (hearing (inPhase .lobby fullQueue)).hears .leave ∧ (inPhase .lobby fullQueue).session.phase ≠ .offline ∧
      (inPhase .lobby fullQueue).table.QueueOk := ⟨⟨rfl, rfl⟩, nofun, queueOk_full⟩
theorem witness_NewRace :
    (inPhase .results race3).hears .newRace ∧ (inPhase .results race3).session.phase = .results ∧
      (inPhase .results race3).table.QueueOk := ⟨⟨rfl, rfl⟩, rfl, ⟨by decide, by decide, fun _ => rfl⟩⟩
theorem witness_NewRace_frozen :
    (inPhase .results (hearing fullQueue)).session.phase = .results ∧
      (inPhase .results (hearing fullQueue)).table.QueueOk ∧ (inPhase .results race3).table.queue = [] :=
  ⟨rfl, queueOk_full, rfl⟩
/-- R86: an offer of nothing with a peer gathered latches CLEARDOWN, and a second one latches nothing more. -/
theorem test_cleardown_once :
    let s := hearing (gathered.setSession { gathered.session with ready := false })
    let t := after (.setOffer 0 0 0) s
    let u := after (.setOffer 0 0 0) (hearing (t.setPort { t.port with latch := 0 }))
    t.session.rule = none ∧ t.port.latched .cleardown = true ∧ t.session.cleardownMark = true ∧
      u.port.latched .cleardown = false := by decide +kernel
theorem witness_SetOffer : lobby3.hears (.setOffer 1 1 0) ∧ lobby3.session.phase = .lobby ∧ lobby3.session.ready = false :=
  ⟨lobby3_hears rfl, rfl, rfl⟩
theorem witness_SetReady :
    lobby3.hears .setReady ∧ lobby3.session.phase = .lobby ∧
      (lobby3.setReadyFlag true).recomputeLobby.resolveRule.conditionA = false := by
  exact ⟨lobby3_hears rfl, rfl, by decide +kernel⟩
theorem witness_ClearReady_countdown :
    (inPhase .proposing open3).hears .clearReady ∧ (inPhase .proposing open3).session.phase = .proposing ∧
      (inPhase .armed open3).hears .clearReady ∧ (inPhase .armed open3).session.phase = .armed :=
  ⟨⟨rfl, rfl⟩, rfl, ⟨rfl, rfl⟩, rfl⟩
theorem witness_AbortHold :
    let s := lobby3.setSession { lobby3.session with abortHold := some 0 }
    s.inReset = false ∧ s.session.abortHold = some 0 ∧ s.session.phase = .lobby ∧ s.session.ready = false :=
  ⟨rfl, rfl, rfl, rfl⟩
theorem witness_EnteringProposing : member (cab 3).session.lobbySet (cab 3).own = true := by decide

/-- Station 9 ready, with stations 3 and 7 gathered, their last frame of this kind and their beacons with this proposal. -/
def ready (kind : LastKind) (proposal : Option Time) : State :=
  let x : Entry := { Entry.empty with
    beacon := some (0, { beacon with roster := 0x0288#16, proposal := proposal }), lastKind := kind }
  (gathered.setTable ((gathered.table.put 3 x).put 7 x)).setReadyFlag true

/-- The first two stages of a re-evaluation in LOBBY. -/
def resolved (s : State) : State := s.recomputeLobby.resolveRule

theorem witness_Reevaluate_stays :
    (ready .beacon none).inReset = false ∧ (ready .beacon none).session.phase = .lobby ∧
      (resolved lobby3).conditionA = false := by decide +kernel
theorem witness_Reevaluate_waits :
    (resolved (ready .beacon none)).conditionA = true ∧ (resolved (ready .beacon none)).enterProposing.breach = none ∧
      member (resolved (ready .beacon none)).session.lobbySet 3 = true ∧
      (resolved (ready .beacon none)).enterProposing.session.proposalOf 3 = none := by decide +kernel
theorem witness_Reevaluate_breach :
    (resolved (ready .car none)).conditionA = true ∧
      (resolved (ready .car none)).enterProposing.breach = some (.member, some 3) := by decide +kernel
theorem witness_Reevaluate_arms :
    let u := resolved (ready .beacon (some 41207000#32))
    u.conditionA = true ∧ u.enterProposing.breach = none ∧
      (∀ st, member u.session.lobbySet st = true → (u.enterProposing.session.proposalOf st).isSome = true) ∧
      u.enterProposing.enterArmed.session.agreed = some 41207000#32 ∧
      tdiff (ready .beacon (some 41207000#32)).now 41207000#32 < 0 := by decide +kernel
/-- A proposal that stands 2^31 − 1 µs behind C is later than the own one, and is reached at once. -/
theorem witness_Reevaluate_starts :
    let u := resolved (ready .beacon (some 2183686849#32))
    u.conditionA = true ∧ u.enterProposing.breach = none ∧
      (∀ st, member u.session.lobbySet st = true → (u.enterProposing.session.proposalOf st).isSome = true) ∧
      u.enterProposing.enterArmed.session.agreed = some 2183686849#32 ∧
      0 ≤ tdiff (ready .beacon (some 2183686849#32)).now 2183686849#32 := by decide +kernel

/-- Station 9 in PROPOSING with every proposal of the roster {3, 7, 9} recorded. -/
def proposing : State :=
  let x := { gathered.session with
    phase := .proposing, ready := true, held := true, rule := some (ruleOn 2), roster := some 0x0288#16 }
  gathered.setSession (((x.putProposal 3 (some 41205000#32)).putProposal 7 (some 41207000#32)).putProposal 9
    (some 41204000#32))

theorem witness_EnteringArmed_breach :
    proposing.session.roster = some 0x0288#16 ∧ proposing.session.rule = some (ruleOn 2) ∧
      proposing.clock.state = .locked := ⟨rfl, rfl, rfl⟩
theorem witness_EnteringArmed :
    proposing.session.roster = some 0x0288#16 ∧ member 0x0288#16 proposing.own = true ∧
      ∀ st, member 0x0288#16 st = true → (proposing.session.proposalOf st).isSome = true := by
  refine ⟨rfl, by decide, ?_⟩
  decide +kernel

/-- The same with each proposal in the stored beacon of its station, at this C. -/
def agreeing (c : Time) : State :=
  let s := (ready .beacon (some 41207000#32)).setSession 
    { proposing.session.putProposal 3 (some 41207000#32) with rule := some (ruleOn 3) }
  atTime c s

theorem witness_Countdown_breach :
    proposing.inReset = false ∧ proposing.session.phase = .proposing ∧
      proposing.recomputeLobby.breach = some (.member, some 3) := by decide +kernel
theorem witness_Countdown_armed :
    (inPhase .armed (agreeing 0)).session.phase = .armed ∧ (inPhase .armed (agreeing 0)).recomputeLobby.breach = none := by
  decide +kernel
theorem witness_Countdown_waits :
    let s := (agreeing 0).setSession ((agreeing 0).session.putProposal 7 none)
    s.recomputeLobby.breach = none ∧ member (s.session.roster.getD 0) 7 = true ∧ s.session.proposalOf 7 = none := by
  decide +kernel
theorem witness_Countdown_arms :
    (agreeing 41206999).recomputeLobby.breach = none ∧ (agreeing 41206999).session.phase = .proposing ∧
      (∀ st, member ((agreeing 41206999).session.roster.getD 0) st = true →
        ((agreeing 41206999).session.proposalOf st).isSome = true) ∧
      (agreeing 41206999).recomputeLobby.enterArmed.session.agreed = some 41207000#32 ∧
      tdiff (agreeing 41206999).now 41207000#32 < 0 ∧ 0 ≤ tdiff (agreeing 41207000).now 41207000#32 := by decide +kernel

/-- A car frame in PROPOSING, and in ARMED, where the own session tag is 0 here. -/
theorem witness_Countdown_car :
    (carFrame 3 247).body = .car (car 0 0 0 0 0 none) ∧ (agreeing 0).session.phase = .proposing ∧
      (agreeing 0).session.roster = some 0x0288#16 ∧ member 0x0288#16 (carFrame 3 247).sender = true ∧
      (carFrame 3 247).sender ≠ (agreeing 0).own ∧ (agreeing 0).breach = none ∧
      (inPhase .armed (agreeing 0)).breach = none ∧ (carFrame 3 247).tag ≠ (agreeing 0).session.tag ∧
      (carFrame 3 0).tag = (agreeing 0).session.tag := by decide +kernel
/-- R95: a car frame reaching PROPOSING aborts. -/
theorem test_car_frame_aborts :
    let t := (agreeing 0).applyFrame (carFrame 3 247) 0
    t.session.phase = .lobby ∧ t.session.lastAbort = some (.member, some 3) := by decide +kernel
theorem witness_Resolution_offers :
    (3 : Station) ≠ (ready .beacon none).own ∧ ((ready .beacon none).table.at 3).beacon.isSome = true ∧
      (5 : Station) ≠ (ready .beacon none).own ∧ ((ready .beacon none).table.at 5).beacon = none := by decide +kernel

theorem proposing_proposals : ∀ st : Station, proposing.session.proposalOf st ∈
    ([none, some 41204000#32, some 41205000#32, some 41207000#32] : List (Option Time)) := by decide +kernel
theorem witness_EnteringArmed_order (a b : Station) (p q : Time) (h : proposing.session.proposalOf a = some p)
    (k : proposing.session.proposalOf b = some q) : (tdiff p q).natAbs < 1073741824 := by
  have x := proposing_proposals a
  have y := proposing_proposals b
  rw [h] at x
  rw [k] at y
  simp only [List.mem_cons, List.not_mem_nil, reduceCtorEq, Option.some.injEq, false_or, or_false] at x y
  rcases x with rfl | rfl | rfl <;> rcases y with rfl | rfl | rfl <;> simp [tdiff]

theorem witness_StartInstant :
    let s := atTime 41207000#32 (inPhase .armed race)
    s.inReset = false ∧ s.session.phase = .armed ∧ s.session.roster = some 0x0208#16 ∧
      s.session.agreed = some 41207000#32 ∧ 0 ≤ tdiff s.now 41207000#32 := by
  exact ⟨rfl, rfl, rfl, rfl, by decide +kernel⟩
theorem witness_RaceOver_limit :
    let s := atTime 1841207000#32 race
    s.inReset = false ∧ s.session.phase.inRace = true ∧ s.session.limit = some 1841207000#32 ∧
      0 ≤ tdiff s.now 1841207000#32 := by
  exact ⟨rfl, rfl, rfl, by decide +kernel⟩
theorem witness_RaceOver_deadline :
    let s := atTime 148900200#32 (race.setSession { race.session with deadline := some 148900200#32 })
    s.inReset = false ∧ s.session.phase.inRace = true ∧ s.session.deadline = some 148900200#32 ∧
      0 ≤ tdiff s.now 148900200#32 := by
  exact ⟨rfl, rfl, rfl, by decide +kernel⟩
theorem witness_Claims :
    race.claimHolds 9 41207000#32 247 = true ∧ race.claimHolds 9 41206999#32 247 = false := by decide +kernel

/-- The race at a window expiry, the record of station 9 at the Link Monitor and its race status being these. -/
def expiring (x : Sender) (status : RaceStatus) : State :=
  ((race.setLink { race.link with window := 0 }).putSender 9 x).putStarter 9
    { status := status, finish := none, heldAt := none }

/-- A sender FADING in its last window. -/
def fading : Sender := { Sender.powerOn with presence := .fading, fade := 2, count := 5 }

/-- A sender LOST at this time, with this count. -/
def lostAt (t : Time) (count : BitVec 8) : Sender :=
  { Sender.powerOn with presence := .lost, lostAt := some t, count := count }

theorem raceStore : race.store.InRange where
  period := by decide
  window := by decide
  on := by decide
  off := by decide
  dropout := by decide
  horizon := by decide
  blend := by decide
  snap := by decide
  startLead := by decide
  finishWindow := by decide
  dnfTimeout := by decide
  linkDelay := by decide
  slew := by decide
  lockBound := by decide
  sweepGap := by decide
  contactLength := by decide
  contactWidth := by decide
  draftLength := by decide
  draftWidth := by decide
  courses := by decide

theorem witness_Expiry_gate (x : Sender) (status : RaceStatus) :
    (expiring x status).inReset = false ∧ (expiring x status).link.window = 0 ∧
      (expiring x status).session.phase.inRace = true ∧ (expiring x status).store.InRange ∧
      (expiring x status).standings.at 9 = some { status := status, finish := none, heldAt := none } :=
  ⟨rfl, rfl, rfl, raceStore, Standings.put_at_self _ _ _⟩
theorem witness_Expiry_lost :
    fading.presence = .fading ∧ fading.count.toNat < race.store.off ∧
      min (fading.fade + 1) race.store.dropout = race.store.dropout ∧ Sender.powerOn.presence ≠ .fading := by
  decide +kernel
/-- C is 80,000,000 µs: a return, a DNF at its timeout to the µs, and a wait that ends outside the slew. -/
theorem witness_Expiry_lost_starter :
    race.store.on ≤ (lostAt 70000000#32 12).count.toNat ∧ (lostAt 70000000#32 11).count.toNat < race.store.on ∧
      10000000 ≤ tdiff race.now 70000000#32 ∧ tdiff race.now 70000000#32 < 2147483147 ∧
      0 ≤ tdiff race.now 70000101#32 ∧ tdiff race.now 70000101#32 + race.store.slew < 10000000 := by decide +kernel
theorem witness_Withdrawal :
    race.session.phase.inRace = true ∧ (carFrame 9 1).sender ≠ race.own ∧ (carFrame 9 1).tag ≠ race.session.tag ∧
      (carFrame 9 247).tag = race.session.tag ∧ beacon.phase ≠ .armed ∧
      race.standings.at 9 = some { status := .running, finish := none, heldAt := none } := by decide +kernel

/-- The race with station 9 FINISHED. -/
def finished9 : State := race.putStarter 9 { status := .finished, finish := some 79000000#32, heldAt := none }

theorem witness_FinalStatuses :
    exec .transactionBegin finished9 = .next (finished9.setPort finished9.port.begin) ∧
      finished9.session.phase.hasStandings = true ∧ ¬ finished9.resetBy .transactionBegin ∧
      finished9.standings.at 9 = some { status := .finished, finish := some 79000000#32, heldAt := none } := by
  refine ⟨rfl, rfl, ?_, by decide +kernel⟩
  rintro (⟨_, _, _, h⟩ | ⟨h, _⟩)
  · cases h
  · cases h
theorem witness_StandingsLists :
    ∀ st r, finished9.standings.at st = some r → r.status = .finished →
      0 ≤ tdiff (r.finish.getD 0) (finished9.session.agreed.getD 0) := by
  intro st r h _
  by_cases e : st = 9
  · subst e
    rw [show finished9.standings.at 9 = some { status := .finished, finish := some 79000000#32, heldAt := none } from by
      decide +kernel] at h
    cases h
    decide +kernel
  · have k : finished9.standings.at st = race.standings.at st := Standings.put_at_ne _ _ e
    have f : ∀ st : Station, ∀ x ∈ race.standings.at st, x.status ≠ .finished := by decide +kernel
    rw [k] at h
    exact absurd ‹_› (f st r h)

theorem witness_StandingsLists_entry :
    ∃ x ∈ finished9.formList none 80000000#32, x.station = finished9.own ∧
      ∃ first, (finished9.formList none 80000000#32).head? = some first ∧ first.status = .finished := by
  exact ⟨(finished9.formList none 80000000#32)[1]'(by decide +kernel), List.getElem_mem _, by decide +kernel, _, rfl,
    by decide +kernel⟩
/-- A record of the race at station 9, none at station 5, and a held distance in force. -/
theorem witness_Presented :
    race.session.tag ≠ 0 ∧ (race.table.at 9).car = some (race.session.tag, car 1 0 4000 0 80000000#32 none) ∧
      (∀ c, ¬ (race.session.tag ≠ 0 ∧ (race.table.at 5).car = some (race.session.tag, c))) ∧
      (∀ r, race.standings.at 9 = some r → r.heldAt = none) ∧
      (race.putStarter 9 { status := .lost, finish := none, heldAt := some 400000 }).standings.at 9 =
        some { status := .lost, finish := none, heldAt := some 400000 } := by
  refine ⟨by decide, by decide +kernel, fun c h => ?_, fun r h => ?_, by decide +kernel⟩
  · rw [show (race.table.at 5).car = none from by decide +kernel] at h
    cases h.2
  · rw [show race.standings.at 9 = some { status := .running, finish := none, heldAt := none } from by
      decide +kernel] at h
    cases h
    rfl

theorem witness_PostCar_plain :
    race3.hears (.postCar { post with flags := 0 }) ∧ race3.session.phase.inRace = true ∧ race3.liveFinish = none ∧
      ({ post with flags := 0 } : CarPost).flags.getLsbD 3 = false := ⟨race3_hears rfl, rfl, rfl, by decide⟩
theorem witness_PostCar_armed : (inPhase .armed race3).session.phase ≠ .racing := nofun
theorem witness_PostCar_after :
    let s := race3.setLive (car 3 0 0 0 0 (some 79000000#32))
    s.hears (.postCar post) ∧ s.session.phase.inRace = true ∧ s.liveFinish = some 79000000#32 := ⟨⟨rfl, rfl⟩, rfl, rfl⟩
theorem witness_OwnFinish :
    race3.hears (.postCar post) ∧ race3.session.phase = .racing ∧ race3.liveFinish = none ∧ post.flags.getLsbD 3 = true ∧
      race3.standings.at race3.own = some { status := .running, finish := none, heldAt := none } := by
  exact ⟨race3_hears rfl, rfl, rfl, by decide, by decide +kernel⟩
/-- The record time of the post of age 500 before the agreed start, and after it (R112). -/
theorem witness_OwnFinish_early :
    tdiff ((atTime 41207100#32 race3).now - BitVec.ofNat 32 (postAge post)) 41207000#32 < 0 ∧
      ¬ tdiff (race3.now - BitVec.ofNat 32 (postAge post)) 41207000#32 < 0 := by decide +kernel
/-- R119: a half is rounded away from zero on both sides. -/
theorem witness_Travelled_tie : travelled 1 0 500000 = 1 ∧ travelled (-1) 0 500000 = -1 ∧ (500000 : Nat) ≤ 1000000 := by
  decide +kernel
/-- R122: a record of the race over one of the race is blended; a respawn snaps. -/
theorem witness_Residual :
    race.newResidual 9 247 (car 0 412000 4000 0 80000000#32 none) 80000000#32 = 500 ∧
      race.newResidual 9 247 { car 0 412000 4000 0 80000000#32 none with respawn := true } 80000000#32 = 0 ∧
      race.newResidual 9 246 (car 0 412000 4000 0 80000000#32 none) 80000000#32 = 0 := by decide +kernel
theorem witness_Presentations : 0 < (track 3).finish ∧ (1000000 : Nat) ≤ 1000000 := by decide

theorem witness_SweepStep :
    race.inReset = false ∧ race.sweepRuns = true ∧ race.prox.timer = some 0 ∧
      race.eligible (race.prox.position + 9) = true ∧
      ∀ m : Fin 16, m < 9 → race.eligible (race.prox.position + m) = false := by
  exact ⟨rfl, rfl, rfl, by decide +kernel, by decide +kernel⟩
/-- R136, R148: station 4 is passed in DRAFT and station 9 enters CONTACT; the details name them. -/
theorem witness_SweepStep_draft :
    let s := race.setProx (race.prox.put 4 { state := .draft, closing := 12 })
    let t := after .sweepStep s
    s.eligible 4 = false ∧ s.sweepRuns = true ∧ t.port.details[6] = 4 ∧ t.port.details[5] = 9 ∧
      t.port.latched .draftChange = true ∧ (t.prox.at 4).closing = 12 := by decide +kernel
theorem witness_SweepStep_nobody :
    let s := race.setTable (race.table.put 9 Entry.empty)
    s.inReset = false ∧ s.sweepRuns = true ∧ s.prox.timer = some 0 ∧ ∀ st, s.eligible st = false := by
  exact ⟨rfl, rfl, rfl, by decide +kernel⟩

theorem witness_ReadLine :
    let s := race3.setPatterns (race3.patterns.set 7 (some [.stop]))
    s.hears (.readLine 2 7) ∧ s.session.phase.hasStandings = true ∧ s.pattern 7 = some [.stop] ∧
      (s.standingsList[1]?).isSome = true := by
  exact ⟨⟨rfl, rfl⟩, rfl, by decide +kernel, by decide +kernel⟩
theorem witness_ReadLine_refused :
    lobby3.session.phase.hasStandings = false ∧ race3.session.phase.hasStandings = true ∧
      race3.pattern 0 = none ∧ race3.standingsList.length < (16#8).toNat := by decide +kernel

theorem witness_TimeDigits :
    race.elapsedOf { station := 14, status := .running, finish := none, distance := 1198760 } 140000000#32 =
      some 98793 := by decide +kernel
theorem witness_PeriodExpiry_beacon :
    let s := inPhase .lobby ((cab 3).setBus { (cab 3).bus with period := some 0 })
    s.inReset = false ∧ s.bus.period = some 0 ∧ s.bus.line = .busy ∧ s.session.phase = .lobby := ⟨rfl, rfl, rfl, rfl⟩
theorem witness_PeriodExpiry_car :
    let s := race.setBus { race.bus with period := some 0 }
    s.inReset = false ∧ s.bus.period = some 0 ∧ s.bus.line = .busy ∧ s.session.phase.hasStandings = true ∧
      s.motion.live = some (car 0 412400 7000 0 80000000#32 none) := ⟨rfl, rfl, rfl, rfl, rfl⟩
theorem witness_PeriodExpiry_idle :
    let s := race.setBus { race.bus with period := some 0, line := .idle }
    s.bus.line = .idle ∧ s.bus.tx = .idle ∧ s.session.phase.hasStandings = true := ⟨rfl, rfl, rfl⟩

/-- A frame of station 3. -/
def frame3 : Frame := { sender := 3, tag := 0, body := .beacon beacon }

theorem witness_Deferral :
    let s := (cab 3).setBus { (cab 3).bus with line := .idle, tx := .defer frame3 1 1 }
    s.inReset = false ∧ s.bus.line = .idle ∧ s.bus.tx = .defer frame3 1 (0 + 1) := ⟨rfl, rfl, rfl⟩
theorem witness_Deferral_waits :
    let s := (cab 3).setBus { (cab 3).bus with tx := .waitIdle frame3 1 }
    s.inReset = false ∧ s.bus.line = .busy ∧ s.bus.run ≠ .opening ∧ s.bus.tx = .waitIdle frame3 1 := ⟨rfl, rfl, nofun, rfl⟩
theorem witness_Activity :
    let s := (cab 3).setBus { (cab 3).bus with line := .idle }
    s.inReset = false ∧ s.bus.line = .idle := ⟨rfl, rfl⟩
theorem witness_StartMark :
    let s := (cab 3).setBus { (cab 3).bus with run := .opening }
    s.inReset = false ∧ s.bus.run = .opening ∧ ∀ f n st c p, s.bus.tx ≠ .sending f n st c p := by
  refine ⟨rfl, rfl, fun f n st c p h => ?_⟩
  simp [cab, State.powerOn, Bus.powerOn] at h
theorem witness_StartMark_sending :
    let s := (cab 3).setBus { (cab 3).bus with run := .opening, tx := .sending frame3 1 none false none }
    s.inReset = false ∧ s.bus.run = .opening ∧ s.bus.tx = .sending frame3 1 none false none := ⟨rfl, rfl, rfl⟩
theorem witness_Collision :
    let f : Frame := { sender := 5, tag := 0, body := .beacon beacon }
    (sending 3 none).inReset = false ∧ (sending 3 none).bus.line = .busy ∧
      (sending 3 none).bus.run = .collecting 1#32 true ∧
      (sending 3 none).bus.tx = .sending f 3 (some 1#32) false none ∧ (f.bytes 1#32)[1]? = some 0x15#8 := by
  exact ⟨rfl, rfl, rfl, rfl, by decide +kernel⟩
theorem witness_Collision_sync :
    let s := (cab 3).setBus { (cab 3).bus with run := .opening, tx := .sending frame3 3 none false none }
    s.inReset = false ∧ s.bus.line = .busy ∧ s.bus.run = .opening ∧ s.bus.tx = .sending frame3 3 none false none ∧
      (after (.collision 0 { value := 0x5C#8, framingError := false }) s).bus.run = .collecting s.now true := by
  exact ⟨rfl, rfl, rfl, rfl, by decide +kernel⟩
theorem witness_TxSuccess :
    let f : Frame := { sender := 5, tag := 0, body := .beacon beacon }
    ∃ b, (f.bytes 1#32).getLast? = some b ∧ (sending 1 none).bus.tx = .sending f 1 (some 1#32) false none :=
  ⟨_, rfl, rfl⟩

/-- A frame of a sender as the line carries it. -/
def carried (f : Frame) : List RxByte := (f.bytes 1#32).map fun b => { value := b, framingError := false }

/-- A cabinet whose receiver holds a run that is not its own echo. -/
def listening : State := (cab 3).setBus { (cab 3).bus with run := .collecting 5#32 false }

theorem witness_LineIdle_bad :
    listening.inReset = false ∧ listening.bus.line = .busy ∧ listening.bus.tx = .idle ∧
      listening.bus.run = .collecting 5#32 false ∧ judgeRun [] = none := ⟨rfl, rfl, rfl, rfl, rfl⟩
theorem witness_LineIdle_clash :
    judgeRun (carried frame3) = some (frame3, 1#32) ∧ frame3.sender = listening.own := by decide +kernel
theorem witness_Received :
    judgeRun (carried { frame3 with sender := 7 }) = some ({ frame3 with sender := 7 }, 1#32) ∧
      ({ frame3 with sender := 7 } : Frame).sender ≠ listening.own ∧ listening.table.freeze = none := by
  decide +kernel
theorem witness_Received_frozen :
    (listening.setTable { listening.table with freeze := some { view := 0, left := 20000 } }).table.freeze ≠ none := nofun
theorem witness_Received_queue : listening.table.QueueOk := queueOk_empty

theorem witness_WindowExpiry :
    let s := (cab 3).setLink { (cab 3).link with window := 0 }
    s.inReset = false ∧ s.link.window = 0 := ⟨rfl, rfl⟩
theorem witness_WindowExpiry_events :
    let s := ((((cab 3).putSender 5 { Sender.powerOn with presence := .acquiring, count := 12 }).putSender 6
      fading).putSender 7 (lostAt 0 12)).putSender 8 { Sender.powerOn with presence := .present, count := 19 }
    (s.link.at 5).presence = .acquiring ∧ s.store.on ≤ (s.link.at 5).count.toNat ∧
      (s.link.at 6).presence = .fading ∧ (s.link.at 6).count.toNat < s.store.off ∧
      (s.link.at 7).presence = .lost ∧ s.store.on ≤ (s.link.at 7).count.toNat ∧
      s.store.window + 2 < (s.link.at 8).count.toNat ∧
      ∀ st, 8 < st → (s.link.at st).presence = .absent ∧ (s.link.at st).count = 0 := by decide +kernel
/-- A sender PRESENT through its window, with this sample. -/
def steady (sample : Option (BitVec 32)) : Sender :=
  { Sender.powerOn with presence := .present, count := 12, sample := sample }

/-- Station 9 in PROPOSING at a window expiry, Condition B holding, station 7's proposal still to come, the records of
stations 3 and 7 being these. -/
def waiting (x y : Sender) : State :=
  let s := (agreeing 0).setSession ((agreeing 0).session.putProposal 7 none)
  ((s.setLink { s.link with window := 0 }).putSender 3 x).putSender 7 y

/-- R96: a roster member lost at the expiry, and a clock gone FREE, each abort the countdown. -/
theorem test_expiry_aborts_for_member :
    let t := (waiting fading (steady (some 0))).judgeSenders .proposing
    t.session.phase = .lobby ∧ t.session.lastAbort = some (.member, some 3) := by decide +kernel
theorem test_expiry_aborts_for_clock :
    let t := ((waiting (steady none) (steady none)).judgeSenders .proposing).handOff .proposing
    t.session.phase = .lobby ∧ t.session.lastAbort = some (.clock, none) := by decide +kernel

/-- The clock state after an expiry outside a race. -/
theorem expiry_state {s : State} {x : ClockState} (h : s.inReset = false) (k : s.link.window = 0)
    (p : s.session.phase.inRace = false)
    (q : (s.picked.judgeSenders s.session.phase).session.phase.inRace = false)
    (r : ((s.picked.judgeSenders s.session.phase).handOff s.session.phase).session.phase.inRace = false)
    (e : ((s.picked.judgeSenders s.session.phase).handOff s.session.phase).clock.state = x) :
    ∃ t, exec .windowExpiry s = .next t ∧ t.clock.state = x :=
  ⟨_, exec_caused (i := .windowExpiry) rfl h (by simp [State.windowOver, k]), by
    rw [State.windowEvaluation_idle p q r]; exact e⟩

theorem witness_WindowExpiry_waits : ∀ x ∈ [fading, steady none, steady (some 0)],
    let s := waiting x (steady (some 0))
    s.inReset = false ∧ s.link.window = 0 ∧ s.session.phase = .proposing ∧ s.session.roster = some 0x0288#16 ∧
      s.breach = none ∧ member 0x0288#16 7 = true ∧ s.session.proposalOf 7 = none := by decide +kernel
/-- Station 3 alone moves, by falling LOST; the clock stays LOCKED. -/
theorem witness_WindowExpiry_falls :
    let s := waiting fading (steady (some 0))
    (s.link.at 3).presence = .fading ∧ (s.link.at 3).count.toNat < s.store.on ∧
      (s.link.at 3).count.toNat < s.store.off ∧ min ((s.link.at 3).fade + 1) s.store.dropout = s.store.dropout ∧
      (∀ x, x ≠ 3 → (s.link.at x).presence = .present ∨ (s.link.at x).presence = .absent) ∧
      member 0x0288#16 3 = true ∧ (3 : Station) ≠ s.own ∧
      ∃ t, exec .windowExpiry s = .next t ∧ t.clock.state = s.clock.state := by
  refine ⟨by decide +kernel, by decide +kernel, by decide +kernel, by decide +kernel, by decide +kernel, by decide,
    by decide, expiry_state rfl rfl ?_ ?_ ?_ ?_⟩
  all_goals decide +kernel
/-- No sender moves: the clock stays LOCKED with a sample, and goes FREE without one. -/
theorem witness_WindowExpiry_still :
    let s := waiting (steady none) (steady (some 0))
    (∀ x, (s.link.at x).presence = .present ∨ (s.link.at x).presence = .absent) ∧
      ∃ t, exec .windowExpiry s = .next t ∧ t.clock.state = s.clock.state := by
  refine ⟨by decide +kernel, expiry_state rfl rfl ?_ ?_ ?_ ?_⟩
  all_goals decide +kernel
theorem witness_WindowExpiry_steered :
    let s := waiting (steady none) (steady none)
    (∀ x, (s.link.at x).presence = .present ∨ (s.link.at x).presence = .absent) ∧ s.clock.state ≠ .free ∧
      ∃ t, exec .windowExpiry s = .next t ∧ t.clock.state = .free := by
  refine ⟨by decide +kernel, by decide +kernel, expiry_state rfl rfl ?_ ?_ ?_ ?_⟩
  all_goals decide +kernel
theorem witness_WindowExpiry_lobby :
    let s := (gathered.setLink { gathered.link with window := 0 }).putSender 3 (lostAt 0 12)
    s.inReset = false ∧ s.link.window = 0 ∧ s.session.phase = .lobby ∧ s.session.ready = false ∧
      (s.link.at 3).presence = .lost ∧ s.store.on ≤ (s.link.at 3).count.toNat := by decide +kernel
theorem witness_Steering : List.Perm [40, -15] ([-15, 40] : List Int) := by decide
theorem witness_Steering_mean :
    3 ≤ ([40, -15, 310] : List Int).length ∧ (0 :: [40, -15, 310]).Perm (310 :: -15 :: ([0, 40] : List Int)) ∧
      ∀ x ∈ (0 :: [40, -15, 310] : List Int), -15 ≤ x ∧ x ≤ 310 := by decide
theorem witness_DebtPayment :
    let s := (cab 3).setClock { (cab 3).clock with debt := 1, payment := 7 }
    s.inReset = false ∧ 0 < s.clock.debt ∧ s.clock.payment = 7 := by decide +kernel

theorem storeOk : (cab 3).store.InRange where
  period := by decide
  window := by decide
  on := by decide
  off := by decide
  dropout := by decide
  horizon := by decide
  blend := by decide
  snap := by decide
  startLead := by decide
  finishWindow := by decide
  dnfTimeout := by decide
  linkDelay := by decide
  slew := by decide
  lockBound := by decide
  sweepGap := by decide
  contactLength := by decide
  contactWidth := by decide
  draftLength := by decide
  draftWidth := by decide
  courses := by decide

theorem witness_NeverStepsBack :
    (cab 3).store.InRange ∧ exec .lineActivity (cab 3) = .next (cab 3) ∧ ¬ (cab 3).resetBy .lineActivity ∧
      Instr.lineActivity ≠ .leave := by
  refine ⟨storeOk, rfl, ?_, nofun⟩
  rintro (⟨_, _, _, h⟩ | ⟨h, _⟩)
  · cases h
  · cases h
theorem witness_Queue_merge : ∃ g ∈ fullQueue.table.queue, g.sender = (carFrame 4 3).sender := by decide +kernel
theorem witness_Queue_place :
    fullQueue.table.queue = [carFrame 2 1] ++ carFrame 4 2 :: fullQueue.table.queue.drop 2 ∧
      ∀ x ∈ [carFrame 2 1], x.sender ≠ (carFrame 4 3).sender := by decide +kernel
theorem witness_Queue_join :
    (∀ g ∈ (cab 3).table.queue, g.sender ≠ (carFrame 4 3).sender) ∧ (cab 3).table.queue.length < 8 := by
  decide +kernel
theorem witness_Queue_overrun :
    (∀ g ∈ fullQueue.table.queue, g.sender ≠ (carFrame 15 1).sender) ∧ fullQueue.table.queue.length = 7 + 1 := by
  decide +kernel
theorem witness_Freeze : lobby3.hears .freeze ∧ lobby3.session.phase ≠ .offline ∧ lobby3.table.freeze = none :=
  ⟨lobby3_hears rfl, nofun, rfl⟩
theorem witness_Thaw :
    (hearing fullQueue).hears .thaw ∧ (hearing fullQueue).table.freeze = some { view := 52310000#32, left := 13600 } :=
  ⟨⟨rfl, rfl⟩, rfl⟩
theorem witness_FreezeTimer :
    let s := fullQueue.setTable { fullQueue.table with freeze := some { view := 52310000#32, left := 0 } }
    s.inReset = false ∧ s.table.freeze = some { view := 52310000#32, left := 0 } := ⟨rfl, rfl⟩
theorem witness_Thaw_one :
    let s := hearing (fullQueue.setTable { fullQueue.table with queue := [carFrame 2 1] })
    s.hears .thaw ∧ s.table.freeze = some { view := 52310000#32, left := 13600 } ∧ s.table.queue = [carFrame 2 1] :=
  ⟨⟨rfl, rfl⟩, rfl, rfl⟩

theorem witness_HostBytes :
    (Instr.setPattern 7 []).wellFormed = true ∧ commandBytes (.setPattern 7 []) = some [0x0A#8, 7#8, 0#8] := by
  decide
theorem witness_Frames_car :
    (carFrame 15 255).body = .car (car 0 0 0 0 0 none) ∧
      (car 5 7999999 0 0 0 none).lap.toNat ≤ 5 ∧ (car 5 7999999 0 0 0 none).position.toNat ≤ 7999999 := by
  decide +kernel
theorem witness_Frames_run : judgeRun (carried frame3) = some (frame3, 1#32) := by decide +kernel

theorem ownQuiet : (cab 3).OwnQuiet :=
  ⟨by decide +kernel, by decide +kernel, by decide +kernel, fun _ h => absurd h (List.not_mem_nil)⟩
theorem clockOk : (cab 3).ClockOk := ⟨by decide, fun _ => rfl, by decide, fun _ => ⟨rfl, rfl, rfl⟩⟩
theorem sessionOk : (cab 3).SessionOk where
  roster := rfl
  held := rfl
  rule := nofun
  offlineRule := fun _ => rfl
  ready := nofun
  offlineReady := fun _ => rfl
  agreed := rfl
  tag := rfl
  record := rfl
  hold := nofun
  period := rfl
  starters := by decide +kernel
  final := rfl
  overAt := rfl
  cause := rfl
  limit := rfl
  deadline := nofun
  sweep := rfl
  freeze := nofun
  frozen := nofun

/-- A step of the cabinet of the four theorems above. -/
theorem witness_Steps : step ((cab 3).setPending [.lineActivity]) = .next (cab 3) := rfl

theorem witness_ConfigurationStands :
    exec .lineActivity lobby3 = .next lobby3 ∧ lobby3.session.phase ≠ .offline ∧ ¬ lobby3.resetBy .lineActivity := by
  refine ⟨rfl, nofun, ?_⟩
  rintro (⟨_, _, _, h⟩ | ⟨h, _⟩)
  · cases h
  · cases h

end Sys2Proof.Tests
end

section

/-! The track gap of R141: its range and its congruence, that the two determine it, and from that its value for the
two stations exchanged. -/

namespace Sys2Proof.Machine

/-- The two-step formation of R141 brings the remainder above minus half the course and up to half of it. -/
theorem trackGap_range {length : Nat} (own peer : Nat) (hlen : 0 < length) :
    -(length : Int) < 2 * trackGap length own peer ∧ 2 * trackGap length own peer ≤ length := by
  have hnonneg := Int.emod_nonneg ((peer : Int) - own) (b := length) (by omega)
  have hlt := Int.emod_lt_of_pos ((peer : Int) - own) (b := length) (by omega)
  unfold trackGap
  dsimp only
  split
  case isTrue hbeyond => omega
  case isFalse hwithin => omega

/-- Both branches of R141 differ from the way from own to peer by whole courses. -/
theorem dvd_own_add_trackGap_sub_peer (length own peer : Nat) :
    (length : Int) ∣ own + trackGap length own peer - peer := by
  have hdivision := Int.mul_ediv_add_emod ((peer : Int) - own) length
  unfold trackGap
  dsimp only
  split
  case isTrue hbeyond => exact ⟨-(((peer : Int) - own) / length) - 1, by rw [Int.mul_sub, Int.mul_neg]; omega⟩
  case isFalse hwithin => exact ⟨-(((peer : Int) - own) / length), by rw [Int.mul_neg]; omega⟩

/-- Range and congruence determine the track gap: two such values differ by a multiple of the course shorter than
the course. -/
theorem trackGap_eq_of_range_of_dvd {length own peer : Nat} {g : Int} (habove : -(length : Int) < 2 * g)
    (hupto : 2 * g ≤ length) (hleads : (length : Int) ∣ own + g - peer) : trackGap length own peer = g := by
  obtain ⟨hgapAbove, hgapUpto⟩ := trackGap_range own peer (show 0 < length by omega)
  have hdvd : (length : Int) ∣ trackGap length own peer - g := by
    have hdiff := Int.dvd_sub (dvd_own_add_trackGap_sub_peer length own peer) hleads
    rwa [show (own : Int) + trackGap length own peer - peer - (own + g - peer) =
      trackGap length own peer - g by omega] at hdiff
  have hzero : trackGap length own peer - g = 0 :=
    Int.eq_zero_of_dvd_of_natAbs_lt_natAbs hdvd (by omega)
  omega

/-- Away from half a course the two stations find opposite gaps. -/
theorem trackGap_swap_of_ne_half {length : Nat} (own peer : Nat) (hlen : 0 < length)
    (hne : 2 * trackGap length own peer ≠ length) : trackGap length peer own = -trackGap length own peer := by
  obtain ⟨habove, hupto⟩ := trackGap_range own peer hlen
  have hleads : (length : Int) ∣ peer + -trackGap length own peer - own := by
    obtain ⟨k, hk⟩ := dvd_own_add_trackGap_sub_peer length own peer
    exact ⟨-k, by rw [Int.mul_neg]; omega⟩
  exact trackGap_eq_of_range_of_dvd (by omega) (by omega) hleads

/-- At half a course both stations find half a course: going back by it and going on by it differ by one course. -/
theorem trackGap_swap_of_eq_half {length : Nat} (own peer : Nat) (hlen : 0 < length)
    (hhalf : 2 * trackGap length own peer = length) : trackGap length peer own = trackGap length own peer := by
  have hleads : (length : Int) ∣ peer + trackGap length own peer - own := by
    obtain ⟨k, hk⟩ := dvd_own_add_trackGap_sub_peer length own peer
    exact ⟨1 - k, by rw [Int.mul_sub, Int.mul_one]; omega⟩
  exact trackGap_eq_of_range_of_dvd (by omega) (Int.le_of_eq hhalf) hleads

/-- Settles O34: range and congruence by the formation of R141, the exchange by their uniqueness. -/
theorem trackGapIsTheShorterWay : Obligations.TrackGapIsTheShorterWay := by
  intro length own peer hlen
  obtain ⟨habove, hupto⟩ := trackGap_range own peer hlen
  exact ⟨habove, hupto, Int.emod_eq_zero_of_dvd (dvd_own_add_trackGap_sub_peer length own peer),
    trackGap_swap_of_ne_half own peer hlen, trackGap_swap_of_eq_half own peer hlen⟩

end Sys2Proof.Machine
end

section

/-! Time fields: the digits MMSSmmm of R175, and their range. Every elapsed time (R167) and every GAPT (R168) is a span
in ms between two 32-bit times, so it stays below 2^31 µs. -/

namespace Sys2Proof.Machine

/-- Two digits of R174: all of a number below 100. -/
theorem digits_two_of_lt {n : Nat} (hn : n < 100) : digits 2 n = [n / 10, n % 10] := by
  have htens : n / 10 % 10 = n / 10 := Nat.mod_eq_of_lt (by omega)
  simp [digits, htens]

/-- Three digits of R174: all of a number below 1000. -/
theorem digits_three_of_lt {n : Nat} (hn : n < 1000) : digits 3 n = [n / 100, n / 10 % 10, n % 10] := by
  have hhundreds : n / 10 / 10 % 10 = n / 100 := by omega
  simp [digits, hhundreds]

/-- The seven time digits of R175; 6000000 ms are the 100 minutes that MM cannot hold. -/
theorem timeDigits_of_lt {v : Nat} (hv : v < 6000000) : timeDigits v =
    [v / 60000 / 10, v / 60000 % 10, v % 60000 / 1000 / 10, v % 60000 / 1000 % 10, v % 1000 / 100, v % 1000 / 10 % 10,
      v % 1000 % 10] := by
  have hminutes : v / 60000 < 100 := by omega
  have hseconds : v % 60000 / 1000 < 100 := by omega
  have hmillis : v % 1000 < 1000 := by omega
  simp only [timeDigits, digits_two_of_lt hminutes, digits_two_of_lt hseconds, digits_three_of_lt hmillis,
    List.cons_append, List.nil_append]

/-- A signed 32-bit difference is at most 2147483647 µs, which are 35 minutes and a part of the next. -/
theorem spanMs_tdiff_minutes_le (a b : Time) : spanMs (tdiff a b) / 60000 ≤ 35 := by
  have hspan : 2 * tdiff a b < 2 ^ 32 := BitVec.two_mul_toInt_lt
  unfold spanMs
  omega

/-- An elapsed time that is present is the span in ms between two times, whatever the status (R167). -/
theorem State.eq_spanMs_of_elapsedOf {s : State} {x : Ranked} {t : Time} {v : Nat} (h : s.elapsedOf x t = some v) :
    ∃ a b, v = spanMs (tdiff a b) := by
  unfold State.elapsedOf at h
  cases hstatus : x.status <;> simp only [hstatus, Option.some.injEq, reduceCtorEq] at h
  case finished | running | lost | unfinished => exact ⟨_, _, h.symm⟩

/-- A GAPT that is present is the span in ms between two finish times (R168). -/
theorem eq_spanMs_of_gapTOf {first x : Ranked} {v : Nat} (h : gapTOf first x = some v) :
    ∃ a b, v = spanMs (tdiff a b) := by
  unfold gapTOf at h
  split at h
  case isTrue => exact ⟨_, _, (Option.some.inj h).symm⟩
  case isFalse => cases h

/-- Settles O39: the digits by the width of each part, the minutes by the range of a difference of times. -/
theorem timeDigitsAreMMSSmmm : Obligations.TimeDigitsAreMMSSmmm := by
  refine ⟨fun v hv => timeDigits_of_lt hv, fun s x y t v hfield => ?_, by decide, by decide⟩
  obtain ⟨a, b, rfl⟩ : ∃ a b, v = spanMs (tdiff a b) :=
    hfield.elim State.eq_spanMs_of_elapsedOf eq_spanMs_of_gapTOf
  exact spanMs_tdiff_minutes_le a b

end Sys2Proof.Machine
end

section

/-! The Host Port's frames: what every command out of turn and every reset comes to (R191, R200, R202), the attention
line kind by kind (R197), and that no command or event but SET EVENT MASK and the resets moves the event mask (R196). -/

namespace Sys2Proof.Machine

variable {s t : State} {i : Instr}

/-! ## Commands out of turn -/

/-- Of the commands that have bytes only an unknown command byte comes as an event of the port (R191). -/
theorem eventOf_of_commandBytes {bytes : List Byte} {e : (State → Bool) × (State → State)}
    (hbytes : commandBytes i = some bytes) (hevent : eventOf i = some e) : ∃ code, i = .unknownCommand code := by
  cases i <;> cases hevent <;> cases hbytes
  case unknownCommand.refl.refl code => exact ⟨code, rfl⟩

/-- What a host clocks in out of turn is ignored, unknown command bytes among it (R187, R188, R191). -/
theorem exec_of_takes_eq_false {bytes : List Byte} (hbytes : commandBytes i = some bytes)
    (htakes : s.port.takes i = false) : exec i s = .next s := by
  rcases command_kind i with rfl | ⟨_, _, _, rfl⟩ | ⟨judge, hjudge⟩ | ⟨cause, act, hevent⟩
  · cases hbytes
  · cases hbytes
  · exact exec_ignored hjudge htakes
  · obtain ⟨code, rfl⟩ := eventOf_of_commandBytes hbytes hevent
    rw [exec_event hevent]
    cases hevent
    exact onCause_idle (by simp [htakes]) _

/-- In DISCARD no command instant comes (R191). -/
theorem Port.takes_of_discard {p : Port} (h : p.state = .discard) (i : Instr) : p.takes i = false := by
  simp [Port.takes, Port.ready, h]

/-! ## The rise of HSEL and the resets -/

theorem State.raiseSelect_of_softReset (h : s.port.softReset = true) : s.raiseSelect = s.softReset := by
  simp [State.raiseSelect, h]

theorem State.raiseSelect_of_not_softReset (h : s.port.softReset = false) :
    s.raiseSelect = s.setPort s.port.endTransaction := by
  simp [State.raiseSelect, h]

/-- A command that resets the part and is not ignored: a release of the reset pin (R200), or with RESET high a rise of
HSEL after SOFT RESET was taken and answered (R202). -/
def State.ResetComes (s : State) (c : Instr) : Prop :=
  (∃ station rate auto, c = .resetRelease station rate auto) ∨
    (s.inReset = false ∧ s.port.softReset = true ∧ s.port.answered = true ∧
      (c = .softResetActs ∨ c = .transactionEnd ∨ c = .responseEndedEarly))

/-- A reset that comes is a release of the pin under the sampled straps or the soft reset. -/
theorem exec_of_resetComes (h : s.ResetComes i) :
    (∃ straps, exec i s = .next (s.release straps)) ∨ exec i s = .next s.softReset := by
  obtain ⟨station, rate, auto, rfl⟩ | ⟨hrunning, hsoft, hanswered, hrise⟩ := h
  · exact .inl ⟨_, rfl⟩
  · right
    obtain rfl | rfl | rfl := hrise
    · exact exec_caused rfl hrunning hsoft
    · rw [exec_caused rfl hrunning hanswered, State.raiseSelect_of_softReset hsoft]
    · rw [exec_caused rfl hrunning hanswered, State.raiseSelect_of_softReset hsoft]

/-- Joining reaches the port through its re-evaluation alone (R73). -/
theorem State.joinLobby_grows : s.port.Grows s.joinLobby.port := by
  unfold State.joinLobby
  refine Port.Grows.trans ?_ State.reevaluate_quiet.port
  exact Port.Grows.rfl

theorem State.joinLobby_store : s.joinLobby.store = s.store := State.reevaluate_quiet.store

/-- The join of AUTO 1 leaves the power-on mask (R201, R203). -/
theorem State.release_mask (straps : Straps) : (s.release straps).port.mask = 0 := by
  unfold State.release
  split
  · exact State.joinLobby_grows.mask
  · rfl

/-- The join of AUTO 1 leaves the default store (R193, R201). -/
theorem State.release_store (straps : Straps) : (s.release straps).store = Store.default := by
  unfold State.release
  split
  · exact State.joinLobby_store
  · rfl

/-- After every reset the event mask is empty and the store at its defaults (R193, R203). -/
theorem exec_resetComes_defaults (h : s.ResetComes i) :
    ∃ t, exec i s = .next t ∧ t.port.mask = 0 ∧ t.store = Store.default := by
  obtain ⟨straps, hexec⟩ | hexec := exec_of_resetComes h
  · exact ⟨_, hexec, State.release_mask straps, State.release_store straps⟩
  · exact ⟨_, hexec, rfl, rfl⟩

/-! ## The attention line -/

theorem Event.bit_lt (e : Event) : e.bit < 20 := by cases e <;> decide

/-- Each of the 20 bits is the bit of a kind. -/
theorem Event.exists_bit_eq {n : Nat} (h : n < 20) : ∃ e : Event, e.bit = n := by
  interval_cases n
  exacts [⟨.peerUp, rfl⟩, ⟨.peerLost, rfl⟩, ⟨.peerBack, rfl⟩, ⟨.chatter, rfl⟩, ⟨.stationClash, rfl⟩, ⟨.clockState, rfl⟩,
    ⟨.ruleChange, rfl⟩, ⟨.cleardown, rfl⟩, ⟨.armed, rfl⟩, ⟨.aborted, rfl⟩, ⟨.started, rfl⟩, ⟨.contact, rfl⟩,
    ⟨.draftChange, rfl⟩, ⟨.peerFinished, rfl⟩, ⟨.raceOver, rfl⟩, ⟨.freezeExpired, rfl⟩, ⟨.rxqHigh, rfl⟩,
    ⟨.rxqOverrun, rfl⟩, ⟨.truncated, rfl⟩, ⟨.frameDropped, rfl⟩]

/-- With RESET high the attention line stands for some kind both latched and in the mask (R197). -/
theorem State.attention_iff (h : s.inReset = false) :
    s.attention = true ↔ ∃ e : Event, s.port.latched e = true ∧ s.port.mask.getLsbD e.bit = true := by
  have hnonzero : s.attention = true ↔ s.port.latch &&& s.port.mask ≠ 0 := by simp [State.attention, h]
  rw [hnonzero]
  constructor
  · intro hne
    by_contra hnone
    refine hne (BitVec.eq_of_getLsbD_eq fun n hn => ?_)
    obtain ⟨e, rfl⟩ := Event.exists_bit_eq hn
    have hboth : ¬ (s.port.latch.getLsbD e.bit = true ∧ s.port.mask.getLsbD e.bit = true) := fun k => hnone ⟨e, k⟩
    simpa using hboth
  · rintro ⟨e, hlatched, hmask⟩ hzero
    have hbit := congrArg (·.getLsbD e.bit) hzero
    simp only [Port.latched] at hlatched
    simp [hlatched, hmask] at hbit

/-! ## Frames of the bus events -/

theorem State.drawDeferral_port (f : Frame) (n : Nat) : (s.drawDeferral f n).port = s.port := by
  unfold State.drawDeferral
  dsimp only
  split <;> rfl

theorem State.contend_port (f : Frame) (n : Nat) : (s.contend f n).port = s.port := by
  unfold State.contend
  split
  · rfl
  · exact State.drawDeferral_port f n

theorem State.place_port (f : Frame) : (s.place f).port = s.port := by
  unfold State.place
  split
  case h_4 => rfl
  all_goals exact State.contend_port f 1

theorem State.periodExpiry_port : s.periodExpiry.port = s.port := by
  unfold State.periodExpiry
  dsimp only
  split
  · exact State.place_port _
  · rfl

theorem State.takePending_port (pending : Option Frame) : (s.takePending pending).port = s.port := by
  unfold State.takePending
  split
  · exact State.contend_port _ 1
  · rfl

theorem State.succeed_port (echo : RxByte) : (s.succeed echo).port = s.port := by
  unfold State.succeed
  split
  case h_1 =>
    split
    · split
      · rfl
      · split
        · rfl
        · exact State.takePending_port _
    · rfl
  all_goals rfl

theorem State.countSlot_port : s.countSlot.port = s.port := by
  unfold State.countSlot
  split
  · split <;> rfl
  · rfl

theorem State.resume_port : s.resume.port = s.port := by
  unfold State.resume
  split
  case h_1 => exact State.drawDeferral_port _ _
  all_goals rfl

/-- After a collision the port may latch FRAME_DROPPED (R13). -/
theorem State.afterCollision_grows (f : Frame) (n : Nat) (pending : Option Frame) :
    s.port.Grows (s.afterCollision f n pending).port := by
  unfold State.afterCollision
  split
  · rw [State.contend_port]; exact Port.Grows.rfl
  · split
    · rw [State.contend_port]; exact Port.Grows.rfl
    · exact Port.occur_grows _ .frameDropped none

theorem State.collide_grows (index : Nat) (echo : RxByte) : s.port.Grows (s.collide index echo).port := by
  unfold State.collide
  split
  case h_1 =>
    split
    · split
      · dsimp only
        split
        · exact Port.Grows.rfl
        · refine Port.Grows.trans ?_ (State.afterCollision_grows _ _ _)
          exact Port.Grows.rfl
      · exact Port.Grows.rfl
    · exact Port.Grows.rfl
  all_goals exact Port.Grows.rfl

/-- The judgement of a run reaches the port through the frame it hands on (R18). -/
theorem State.judgeBytes_grows (capture : Time) (run : List RxByte) : s.port.Grows (s.judgeBytes capture run).port := by
  unfold State.judgeBytes
  split
  · exact Port.Grows.rfl
  · exact (State.handOn_keeps _ _ _).port

theorem State.goIdle_grows (run : List RxByte) : s.port.Grows (s.goIdle run).port := by
  unfold State.goIdle
  rw [State.resume_port]
  show s.port.Grows (s.endRun run).port
  unfold State.endRun
  split
  case h_1 => exact State.judgeBytes_grows _ run
  all_goals exact Port.Grows.rfl

/-! ## Frames of the session and car commands -/

theorem State.leaveSession_quiet : s.Quiet s.leaveSession := by
  unfold State.leaveSession
  dsimp only
  refine State.Quiet.trans ?_ State.reevaluate_quiet
  split <;> split
  · exact (State.setSession_quiet _).trans (State.signal_quiet _)
  · exact State.setSession_quiet _
  · exact ((State.setSession_quiet _).trans (State.signal_quiet _)).trans (State.signal_quiet _)
  · exact (State.setSession_quiet _).trans (State.signal_quiet _)

theorem State.freeClock_keeps : s.Keeps s.freeClock := (State.setClock_keeps _).trans (State.setClockState_keeps _)

theorem State.removeRace_applies : s.Applies s.removeRace :=
  (((State.setStandings_quiet _).trans (State.setProx_quiet _)).trans (State.setMotion_quiet _)).toApplies.trans
    State.clearTable_applies

/-- LEAVE reaches the port by the session's events and the frames drained alone (R74). -/
theorem State.leaveRace_grows : s.port.Grows s.leaveRace.port :=
  State.leaveSession_quiet.port.trans
    (State.freeClock_keeps (s := s.leaveSession.setBus s.leaveSession.bus.close) |>.trans
      State.removeRace_applies.toKeeps).port

theorem State.newRaceSession_quiet : s.Quiet s.newRaceSession :=
  (State.setSession_quiet _).trans State.reevaluate_quiet

theorem State.ownFinish_quiet (finish : Time) : s.Quiet (s.ownFinish finish) :=
  (((State.setSession_quiet _).trans (State.setProx_quiet _)).trans (State.offerClaim_quiet _ _ _)).trans
    State.reevaluate_quiet

theorem State.afterPost_quiet (kind : PostKind) (c : CarRecord) : s.Quiet (s.afterPost kind c) := by
  unfold State.afterPost
  split
  case h_1 => exact State.ownFinish_quiet _
  all_goals exact State.Quiet.rfl

theorem State.takePost_quiet (p : CarPost) : s.Quiet (s.takePost p).state :=
  (State.setMotion_quiet _).trans (State.afterPost_quiet _ _)

theorem State.postCar_quiet (p : CarPost) : s.Quiet (s.postCar p).state := by
  unfold State.postCar
  split
  case h_1 | h_2 | h_3 => exact State.takePost_quiet p
  all_goals exact State.Quiet.rfl

theorem State.setReady_quiet : s.Quiet s.setReady.state := by
  unfold State.setReady
  split
  case h_1 => exact (State.setSession_quiet _).trans State.reevaluate_quiet
  all_goals exact State.Quiet.rfl

theorem State.clearReady_quiet : s.Quiet s.clearReady.state := by
  unfold State.clearReady
  split
  case h_1 => exact (State.setSession_quiet _).trans State.reevaluate_quiet
  case h_2 | h_3 => exact (State.setSession_quiet _).trans (State.abort_quiet _ _)
  all_goals exact State.Quiet.rfl

theorem State.setOffer_quiet (courses laps options : Byte) : s.Quiet (s.setOffer courses laps options).state := by
  unfold State.setOffer
  split
  · split
    · exact State.Quiet.rfl
    · exact ((State.setSession_quiet _).trans (State.setSession_quiet _)).trans State.reevaluate_quiet
  · exact State.Quiet.rfl

/-! ## The event mask -/

/-- Of the host commands SET EVENT MASK alone moves the mask (R196). -/
theorem judgeOf_mask {judge : State → Answer} (h : judgeOf i = some judge) (hi : ∀ mask, i ≠ .setEventMask mask) :
    (judge s).state.port.mask = s.port.mask := by
  cases i <;> cases h
  case setEventMask mask => exact absurd rfl (hi mask)
  case readStatus | readLobby | readCountdown | readClock | readCars | readProx => rfl
  case readEvents | softReset | proxOff | clearFaults => rfl
  case configure p => unfold State.configure; split <;> rfl
  case setCourse index length =>
    unfold State.setCourse
    repeat' split
    all_goals rfl
  case setPattern index steps =>
    unfold State.setPattern
    repeat' split
    all_goals rfl
  case join =>
    unfold State.join
    split
    · exact State.joinLobby_grows.mask
    · rfl
  case leave =>
    unfold State.leave
    split
    · rfl
    · exact State.leaveRace_grows.mask
  case newRace =>
    unfold State.newRace
    split
    · exact (State.newRaceSession_quiet.toApplies.trans State.removeRace_applies).port.mask
    · rfl
  case setOffer courses laps options => exact (State.setOffer_quiet courses laps options).port.mask
  case setReady => exact State.setReady_quiet.port.mask
  case clearReady => exact State.clearReady_quiet.port.mask
  case postCar p => exact (State.postCar_quiet p).port.mask
  case readPeer station => unfold State.readPeer; split <;> rfl
  case freeze =>
    unfold State.freeze
    repeat' split
    all_goals rfl
  case thaw =>
    unfold State.thaw
    split
    · exact State.endFreeze_applies.port.mask
    · rfl
  case proxOn => unfold State.proxOn; split <;> rfl
  case readStandings start count => unfold State.readStandings; split <;> rfl
  case readLine place pattern =>
    unfold State.readLine
    repeat' split
    all_goals rfl

/-- No event whose cause stands moves the mask unless it resets the part (R196). -/
theorem eventOf_mask {cause : State → Bool} {act : State → State} (h : eventOf i = some (cause, act))
    (hcause : cause s = true) (hreset : ¬ s.resetBy i) : (act s).port.mask = s.port.mask := by
  have hrise : i = .softResetActs ∨ i = .transactionEnd ∨ i = .responseEndedEarly → s.port.softReset = false := by
    intro hi
    by_contra hsoft
    exact hreset (.inr ⟨by simpa using hsoft, hi⟩)
  cases i <;> cases h
  case unknownCommand | transactionBegin | lineActivity | startMark => rfl
  case readEventsEnd => show s.port.endReadEvents.mask = _; unfold Port.endReadEvents; split <;> rfl
  case softResetActs => exact absurd hcause (by simp [hrise])
  case transactionEnd | responseEndedEarly => simp [State.raiseSelect_of_not_softReset, hrise]
  case truncated clocks => unfold State.truncate; dsimp only; split <;> rfl
  case framePeriodExpiry => exact congrArg Port.mask State.periodExpiry_port
  case deferralSlot => exact congrArg Port.mask State.countSlot_port
  case txSuccess echo => exact congrArg Port.mask (State.succeed_port echo)
  case lineIdle run => exact (State.goIdle_grows run).mask
  case collision index echo => exact (State.collide_grows index echo).mask
  case windowExpiry => exact State.windowEvaluation_keeps.port.mask
  case debtPayment => show s.port.tick.mask = _; rw [Port.tick_moves]
  case freezeTimerExpiry => exact (State.endFreeze_applies.trans (State.signal_quiet _).toApplies).port.mask
  case abortHoldExpiry => exact ((State.setSession_quiet _).trans State.reevaluate_quiet).port.mask
  case sweepStep => exact State.sweep_quiet.port.mask
  case startInstant => exact State.start_quiet.port.mask
  case finishDeadline | raceLimit => exact State.checkRaceEnd_quiet.port.mask

/-- The mask stands through every command and event but SET EVENT MASK and the resets (R196). -/
theorem exec_mask (h : exec i s = .next t) (hreset : ¬ s.resetBy i) (hi : ∀ mask, i ≠ .setEventMask mask) :
    t.port.mask = s.port.mask := by
  obtain ⟨-, rfl⟩ | ⟨station, rate, auto, rfl, -⟩ | rfl | ⟨judge, hjudge, -, rfl⟩ | ⟨cause, act, hevent, -, hcause, rfl⟩ :=
    exec_cases h
  · rfl
  · exact absurd (.inl ⟨station, rate, auto, rfl⟩) hreset
  · rfl
  · exact judgeOf_mask hjudge hi
  · exact eventOf_mask hevent hcause hreset

/-- The answer of SET EVENT MASK spells the lowest 20 bits with the unused bits 0 (R196). -/
theorem be3_lowest20 (mask : BitVec 24) : be3 ((mask.extractLsb' 0 20).setWidth 24) =
    [mask.extractLsb' 16 8 &&& 0x0F#8, mask.extractLsb' 8 8, mask.extractLsb' 0 8] := by
  have htop : ∀ n : Nat, n &&& 15 = n % 16 := fun n => Nat.and_two_pow_sub_one_eq_mod n 4
  simp only [be3, List.cons.injEq, and_true]
  refine ⟨?_, ?_, ?_⟩ <;> apply BitVec.eq_of_toNat_eq <;> simp [htop, Nat.shiftRight_eq_div_pow] <;> omega

/-- Settles O10: the equation of SET EVENT MASK with R197 kind by kind, the defaults of the resets, and the frame over
every command and event. -/
theorem setEventMaskStoresTwentyBits : Obligations.SetEventMaskStoresTwentyBits := by
  refine ⟨fun mask s hhears => ?_, fun c s hreset => ?_, fun i s t hexec hreset hi => exec_mask hexec hreset hi⟩
  · have hexec := exec_judged (judge := State.setEventMask mask) rfl hhears
    refine ⟨_, hexec, ?_, fun n hn => ?_, ?_⟩
    · rw [← be3_lowest20]; rfl
    · show (mask.extractLsb' 0 20).getLsbD n = _
      simp [hn]
    · refine (State.attention_iff (s := (s.setEventMask mask).deliver) hhears.1).trans ?_
      show (∃ e : Event, s.port.latched e = true ∧ (mask.extractLsb' 0 20).getLsbD e.bit = true) ↔ _
      simp [Event.bit_lt]
  · obtain ⟨t, hexec, hmask, -⟩ := exec_resetComes_defaults hreset
    exact ⟨t, hexec, hmask⟩

/-- Settles O7: the equation of UNKNOWN_COMMAND, the table by membership, and in DISCARD the command that nobody takes
and the rise without SOFT RESET. -/
theorem unknownCommandIsDiscarded : Obligations.UnknownCommandIsDiscarded := by
  refine ⟨fun code s hhears hname => ?_, fun code => List.contains_iff_mem, fun i s bytes hdiscard hbytes => ?_,
    fun s hrunning hdiscard hsoft => ?_⟩
  · refine ⟨_, exec_caused rfl hhears.1 (by simp [hhears.2, hname]), rfl, rfl, fun n hn => ?_⟩
    obtain ⟨m, rfl⟩ := Nat.exists_eq_add_of_le' hn
    rfl
  · exact exec_of_takes_eq_false hbytes (Port.takes_of_discard hdiscard i)
  · have hanswered : s.port.answered = true := by simp [Port.answered, hdiscard]
    refine ⟨s.setPort s.port.endTransaction, ?_, rfl, rfl, rfl⟩
    rw [exec_caused rfl hrunning hanswered, State.raiseSelect_of_not_softReset hsoft]

end Sys2Proof.Machine
end

section

/-! The course table: what SET COURSE stores, and the set of installed courses member by member (R79, R194). -/

namespace Sys2Proof.Machine

/-- One course's bit stands in a one-member mask exactly for that course. -/
theorem getLsbD_one_shiftLeft_course (a i : BitVec 3) : (1#8 <<< a.toNat).getLsbD i.toNat = decide (i = a) := by
  revert a i; decide

/-- Collecting installed courses into a mask sets the bits of those collected. -/
theorem Store.getLsbD_foldl_installed (c : Store) (i : BitVec 3) (l : List (BitVec 3)) : ∀ m : BitVec 8,
    (l.foldl (fun m i => if c.courseLength i ≠ 0 then m ||| (1#8 <<< i.toNat) else m) m).getLsbD i.toNat =
      (m.getLsbD i.toNat || (decide (i ∈ l) && decide (c.courseLength i ≠ 0))) := by
  induction l with
  | nil => simp
  | cons a l ih =>
    intro m
    rw [List.foldl_cons, ih]
    by_cases hi : i = a
    · subst hi
      by_cases hlength : c.courseLength i = 0 <;>
        simp [hlength, BitVec.getLsbD_or, getLsbD_one_shiftLeft_course, -BitVec.getLsbD_shiftLeft]
    · by_cases hlength : c.courseLength a = 0 <;>
        simp [hi, hlength, BitVec.getLsbD_or, getLsbD_one_shiftLeft_course, -BitVec.getLsbD_shiftLeft]

theorem mem_courseNumbers (i : BitVec 3) : i ∈ courseNumbers := by revert i; decide

/-- A course is installed exactly when its length is not 0 (R79). -/
theorem Store.installed_getLsbD (c : Store) (i : BitVec 3) :
    c.installed.getLsbD i.toNat = decide (c.courseLength i ≠ 0) := by
  rw [Store.installed, Store.getLsbD_foldl_installed]
  simp [mem_courseNumbers]

/-- Storing a length moves the one course (R194). -/
theorem Store.withCourse_get (c : Store) (n length i : Nat) (h : i < 8) :
    (c.withCourse n length).courses[i] = if i = n then length else c.courses[i] := by
  simp [Store.withCourse, Vector.getElem_setIfInBounds, eq_comm]

/-- The default course table: course 0 alone, at 300,000 tu (R193). -/
theorem Store.default_get (i : Nat) (h : i < 8) : Store.default.courses[i] = if i = 0 then 300000 else 0 := by
  interval_cases i <;> rfl

/-- The length 0 as 32 bits is the length 0 (R194). -/
theorem storedLength_toNat (length : BitVec 32) :
    storedLength length.toNat = if length = 0 then 0 else clampNat 50000 8000000 length.toNat := by
  simp [storedLength, BitVec.toNat_eq]

/-! ## SET COURSE by its three outcomes -/

variable {s : State} {n : Byte} {length : BitVec 32}

theorem State.setCourse_stores (hphase : s.session.phase = .offline) (hn : n.toNat ≤ 7) : s.setCourse n length =
    (s.setStore (s.store.withCourse n.toNat (storedLength length.toNat))).recomputeOffer.report
      (be4 (BitVec.ofNat 32 (storedLength length.toNat))) := by
  simp [State.setCourse, hphase, hn]

theorem State.setCourse_operand (hphase : s.session.phase = .offline) (hn : 7 < n.toNat) :
    s.setCourse n length = s.refuse .operand := by
  simp [State.setCourse, hphase, Nat.not_le.2 hn]

theorem State.setCourse_phase (hphase : s.session.phase ≠ .offline) : s.setCourse n length = s.refuse .phase := by
  simp [State.setCourse, hphase]

/-- Settles O15: SET COURSE by its three outcomes, and the default store of the resets. -/
theorem setCourseStoresTheLength : Obligations.SetCourseStoresTheLength := by
  refine ⟨fun n length s hhears hphase hn => ?_, fun n length s hhears => ?_, fun c s hreset => ?_⟩
  · have hexec := exec_judged rfl hhears
    rw [State.setCourse_stores hphase hn] at hexec
    exact ⟨_, _, hexec, storedLength_toNat length, fun i h => Store.withCourse_get s.store n.toNat _ i h,
      Store.installed_getLsbD _, rfl, rfl⟩
  · have hexec := exec_judged rfl hhears
    refine ⟨fun hphase hn => ?_, fun hphase => ?_⟩
    · rw [hexec, State.setCourse_operand hphase hn]; rfl
    · rw [hexec, State.setCourse_phase hphase]; rfl
  · obtain ⟨t, hexec, -, hstore⟩ := exec_resetComes_defaults hreset
    exact ⟨t, hexec, fun i h => by rw [hstore]; exact Store.default_get i h⟩

end Sys2Proof.Machine
end

section

/-! What a command can do, said once for the whole state: every `exec` comes to one of a few moves, up to the Host Port's own
answer, and what every command keeps every step keeps. -/

namespace Sys2Proof.Machine

variable {s t u : State} {i : Instr}

/-! ## The line and the transmitter -/

/-- The step from `s` to `t` moves the Bus Interface, the count of free values and the event latch alone, and the period
timer runs on or stands stopped (R8 to R18). -/
structure State.Contends (s t : State) : Prop where
  moves : t = ((s.setChoices t.choices).setBus t.bus).setPort t.port
  period : t.bus.period.isSome = s.bus.period.isSome
  port : s.port.Grows t.port

theorem State.Contends.rfl : s.Contends s := ⟨.refl _, .refl _, .rfl⟩

theorem State.Contends.trans (h : s.Contends t) (k : t.Contends u) : s.Contends u :=
  ⟨by rw [k.moves, h.moves]; exact .refl _, k.period.trans h.period, h.port.trans k.port⟩

/-- A Bus Interface replaced by one whose period timer runs exactly as before. -/
theorem State.setBus_contends (b : Bus) (h : b.period.isSome = s.bus.period.isSome) : s.Contends (s.setBus b) :=
  ⟨rfl, h, .rfl⟩

theorem State.signal_contends (e : Event) : s.Contends (s.signal e) := ⟨rfl, rfl, Port.occur_grows _ _ _⟩

theorem State.signalAt_contends (e : Event) (st : Station) : s.Contends (s.signalAt e st) :=
  ⟨rfl, rfl, Port.occur_grows _ _ _⟩

theorem State.drawDeferral_contends (f : Frame) (n : Nat) : s.Contends (s.drawDeferral f n) := by
  unfold State.drawDeferral
  dsimp only
  split <;> exact ⟨rfl, rfl, .rfl⟩

theorem State.contend_contends (f : Frame) (n : Nat) : s.Contends (s.contend f n) := by
  unfold State.contend
  split
  · exact State.setBus_contends _ rfl
  · exact State.drawDeferral_contends f n

theorem State.place_contends (f : Frame) : s.Contends (s.place f) := by
  unfold State.place
  split
  case h_4 => exact State.setBus_contends _ rfl
  all_goals exact State.contend_contends f 1

theorem State.periodExpiry_contends (h : s.periodOver = true) : s.Contends s.periodExpiry := by
  have hperiod : s.bus.period = some 0 := by simpa [State.periodOver] using h
  have hset : s.Contends (s.setBus { s.bus with period := some s.store.period }) :=
    State.setBus_contends _ (by rw [hperiod]; rfl)
  unfold State.periodExpiry
  dsimp only
  split
  · exact hset.trans (State.place_contends _)
  · exact hset

theorem State.takePending_contends (pending : Option Frame) : s.Contends (s.takePending pending) := by
  unfold State.takePending
  split
  · exact State.contend_contends _ 1
  · exact State.setBus_contends _ rfl

theorem State.afterCollision_contends (f : Frame) (n : Nat) (pending : Option Frame) :
    s.Contends (s.afterCollision f n pending) := by
  unfold State.afterCollision
  split
  · exact State.contend_contends _ _
  · split
    · exact State.contend_contends _ _
    · exact State.Contends.trans (t := s.setBus { s.bus with tx := .idle, dropped := satInc s.bus.dropped })
        (State.setBus_contends _ rfl) (State.signal_contends _)

/-- The start mark leaves the period timer (R17). -/
theorem Bus.mark_period (b : Bus) (c : Time) : (b.mark c).period = b.period := by
  unfold Bus.mark
  split <;> rfl

theorem State.collide_contends (index : Nat) (echo : RxByte) : s.Contends (s.collide index echo) := by
  unfold State.collide
  split
  case h_1 =>
    split
    · split
      · have hcount : s.Contends (s.setBus { s.bus.mark s.now with collisions := satInc s.bus.collisions }) :=
          State.setBus_contends _ (congrArg Option.isSome (Bus.mark_period s.bus s.now))
        dsimp only
        split
        · exact hcount.trans (State.setBus_contends _ rfl)
        · exact hcount.trans (State.afterCollision_contends _ _ _)
      · exact .rfl
    · exact .rfl
  all_goals exact .rfl

theorem State.succeed_contends (echo : RxByte) : s.Contends (s.succeed echo) := by
  unfold State.succeed
  split
  case h_1 =>
    split
    · split
      · exact .rfl
      · split
        · exact State.setBus_contends _ rfl
        · exact State.takePending_contends _
    · exact .rfl
  all_goals exact .rfl

theorem State.countSlot_contends : s.Contends s.countSlot := by
  unfold State.countSlot
  split
  · split <;> exact State.setBus_contends _ rfl
  · exact .rfl

theorem State.resume_contends : s.Contends s.resume := by
  unfold State.resume
  split
  case h_1 => exact State.drawDeferral_contends _ _
  all_goals exact .rfl

/-- What the line going idle does with the run: nothing beyond the Bus Interface and the latch, or a valid frame of a peer is
counted and received (R17 to R20). -/
theorem State.endRun_cases (run : List RxByte) : s.Contends (s.endRun run) ∨
    ∃ f stamp capture, f.sender ≠ s.own ∧
      s.endRun run = (s.countReception f.sender stamp capture).receive f := by
  unfold State.endRun
  split
  case h_1 capture _ =>
    unfold State.judgeBytes
    split
    · exact .inl (State.setBus_contends _ rfl)
    · next f stamp _ =>
      unfold State.handOn
      split
      · exact .inl (State.signalAt_contends _ _)
      · next hsender => exact .inr ⟨f, stamp, capture, hsender, rfl⟩
  all_goals exact .inl .rfl

theorem State.goIdle_contends (run : List RxByte) : (s.endRun run).Contends (s.goIdle run) :=
  (State.setBus_contends { (s.endRun run).bus with line := .idle, run := .closed } rfl).trans State.resume_contends

/-! ## Every command -/

/-- What a reset leaves: the release of the reset pin, with the straps it samples, or SOFT RESET, with those that stand
(R200, R202). -/
def State.ResetTo (s t : State) (i : Instr) : Prop :=
  (∃ station rate auto, i = .resetRelease station rate auto ∧
    t = s.release { station := station, rate := rate, auto := auto }) ∨ t = s.softReset

/-- What a command that does not reset the part can do at a state, the answer in the Host Port apart: one case for each kind
of work, with what its gate has tested. -/
inductive State.Effect (s : State) : Instr → State → Prop
  | hold : s.Effect .resetAssert s.hold
  | port {i : Instr} (p : Port) : s.Effect i (s.setPort p)
  | line {i : Instr} {t : State} (hcontends : s.Contends t) : s.Effect i t
  | received {i : Instr} {t : State} (f : Frame) (stamp capture : Time) (hsender : f.sender ≠ s.own)
    (hcontends : ((s.countReception f.sender stamp capture).receive f).Contends t) : s.Effect i t
  | window : s.Effect .windowExpiry s.windowEvaluation
  | payment {i : Instr} (hdue : s.paymentDue = true) : s.Effect i s.payMicrosecond
  | endFreeze {i : Instr} (hfreeze : s.table.freeze.isSome = true) : s.Effect i s.endFreeze
  | endHold {i : Instr} (hhold : s.session.abortHold = some 0) : s.Effect i s.endHold
  | sweep {i : Instr} (hdue : s.sweepDue = true) : s.Effect i s.sweep
  | start {i : Instr} (hreached : s.startReached = true) : s.Effect i s.start
  | raceOver {i : Instr} (cause : EndCause) (hrace : s.session.phase.inRace = true) : s.Effect i (s.raceOver cause)
  | join {i : Instr} (hphase : s.session.phase = .offline) : s.Effect i s.joinLobby
  | leave (hphase : s.session.phase ≠ .offline) : s.Effect .leave s.leaveRace
  | newRace (hphase : s.session.phase = .results) : s.Effect .newRace s.newRaceSession.removeRace
  | setOffer {i : Instr} (offer : Offer) (hphase : s.session.phase = .lobby) :
    s.Effect i (s.setSession { s.session with hostOffer := offer }).recomputeOffer.reevaluate
  | setReady {i : Instr} (b : Bool) (hphase : s.session.phase = .lobby) : s.Effect i (s.setReadyFlag b).reevaluate
  | clearReady {i : Instr} (hphase : s.session.phase = .proposing ∨ s.session.phase = .armed) :
    s.Effect i ((s.setReadyFlag false).abort .host none)
  | freeze {i : Instr} (hphase : s.session.phase ≠ .offline) (hfreeze : s.table.freeze = none) : s.Effect i s.beginFreeze
  | clearFaults {i : Instr} : s.Effect i s.clearFaults.state
  | post {i : Instr} (p : CarPost) (hphase : s.session.phase = .armed ∨ s.session.phase.inRace = true) :
    s.Effect i (s.takePost p).state
  | proxOn {i : Instr} : s.Effect i s.proxOn.state
  | proxOff {i : Instr} : s.Effect i s.proxOff.state
  | configure {i : Instr} (p : Parameters) (hphase : s.session.phase = .offline) :
    s.Effect i ((s.setStore (storeOf p s.store.courses)).setLink
      (s.link.configured (storeOf p s.store.courses))).recomputeOffer
  | setCourse {i : Instr} (n length : Nat) (hphase : s.session.phase = .offline) :
    s.Effect i (s.setStore (s.store.withCourse n (storedLength length))).recomputeOffer
  | setPattern {i : Instr} (x : Patterns) (hphase : s.session.phase = .offline) : s.Effect i (s.setPatterns x)

/-- A refused command, and one that only reports, moves nothing but the port. -/
theorem State.Effect.same : s.Effect i s := .port s.port

/-- What a host command does at its command instant. -/
theorem effect_of_judgeOf {judge : State → Answer} (h : judgeOf i = some judge) : s.Effect i (judge s).state := by
  cases i <;> cases h
  case readStatus | readLobby | readCountdown | readClock | readCars | readProx => exact .same
  case readEvents | softReset => exact .port _
  case setEventMask mask => exact .port _
  case configure p =>
    unfold State.configure
    split
    · next hphase => exact .configure p hphase
    · exact .same
  case setCourse index length =>
    unfold State.setCourse
    split
    · next hphase =>
      split
      · exact .setCourse _ _ hphase
      · exact .same
    · exact .same
  case setPattern index steps =>
    unfold State.setPattern
    split
    · next hphase =>
      split
      · split
        · exact .setPattern _ hphase
        · exact .same
      · exact .same
    · exact .same
  case join =>
    unfold State.join
    split
    · next hphase => exact .join hphase
    · exact .same
  case leave =>
    unfold State.leave
    split
    · exact .same
    · next hphase => exact .leave hphase
  case newRace =>
    unfold State.newRace
    split
    · next hphase => exact .newRace hphase
    · exact .same
  case setOffer courses laps options =>
    unfold State.setOffer
    split
    · next hphase =>
      split
      · exact .same
      · exact .setOffer _ hphase
    · exact .same
  case setReady =>
    unfold State.setReady
    split
    case h_1 hphase => exact .setReady true hphase
    all_goals exact .same
  case clearReady =>
    unfold State.clearReady
    split
    case h_1 hphase => exact .setReady false hphase
    case h_2 hphase => exact .clearReady (.inl hphase)
    case h_3 hphase => exact .clearReady (.inr hphase)
    all_goals exact .same
  case readPeer station => unfold State.readPeer; split <;> exact .same
  case freeze =>
    unfold State.freeze
    split
    · exact .same
    · next hphase =>
      split
      · exact .same
      · next hfreeze => exact .freeze hphase hfreeze
  case thaw =>
    unfold State.thaw
    split
    · next f hfreeze => exact .endFreeze (by rw [hfreeze]; rfl)
    · exact .same
  case clearFaults => exact .clearFaults
  case postCar p =>
    unfold State.postCar
    split
    case h_1 hphase => exact .post p (.inl hphase)
    case h_2 hphase | h_3 hphase => exact .post p (.inr (by rw [hphase]; rfl))
    all_goals exact .same
  case proxOn => exact .proxOn
  case proxOff => exact .proxOff
  case readStandings start count => unfold State.readStandings; split <;> exact .same
  case readLine place pattern =>
    unfold State.readLine
    repeat' split
    all_goals exact .same

theorem effect_of_checkRaceEnd : s.Effect i s.checkRaceEnd := by
  unfold State.checkRaceEnd
  split
  · next hrace =>
    split
    · exact .raceOver _ hrace
    · exact .same
  · exact .same

/-- What an event does where its cause stands: a rise of HSEL resets the part where SOFT RESET was taken (R190, R202), and
FREEZE_TIMER_EXPIRY latches its kind besides. -/
theorem effect_of_eventOf {cause : State → Bool} {act : State → State} (h : eventOf i = some (cause, act))
    (hcause : cause s = true) :
    (s.resetBy i ∧ s.ResetTo (act s) i) ∨ ∃ u p, s.Effect i u ∧ act s = u.setPort p := by
  have alone : ∀ {u : State}, s.Effect i u → (s.resetBy i ∧ s.ResetTo u i) ∨ ∃ v p, s.Effect i v ∧ u = v.setPort p :=
    fun {u} hu => .inr ⟨u, u.port, hu, rfl⟩
  have rise : i = .transactionEnd ∨ i = .responseEndedEarly →
      (s.resetBy i ∧ s.ResetTo s.raiseSelect i) ∨ ∃ v p, s.Effect i v ∧ s.raiseSelect = v.setPort p := fun hi => by
    unfold State.raiseSelect
    split
    · next hsoft => exact .inl ⟨.inr ⟨hsoft, .inr hi⟩, .inr rfl⟩
    · exact alone (.port _)
  cases i <;> cases h
  case readEventsEnd | unknownCommand | transactionBegin => exact alone (.port _)
  case softResetActs => exact .inl ⟨.inr ⟨hcause, .inl rfl⟩, .inr rfl⟩
  case truncated clocks =>
    unfold State.truncate
    dsimp only
    split <;> exact alone (.port _)
  case responseEndedEarly => exact rise (.inr rfl)
  case transactionEnd => exact rise (.inl rfl)
  case framePeriodExpiry => exact alone (.line (State.periodExpiry_contends hcause))
  case lineActivity => exact alone (.line (State.setBus_contends _ rfl))
  case startMark => exact alone (.line (State.setBus_contends _ (congrArg Option.isSome (Bus.mark_period _ _))))
  case lineIdle run =>
    obtain hline | ⟨f, stamp, capture, hsender, hreceived⟩ := State.endRun_cases (s := s) run
    · exact alone (.line (hline.trans (State.goIdle_contends run)))
    · exact alone (.received f stamp capture hsender (hreceived ▸ State.goIdle_contends run))
  case deferralSlot => exact alone (.line State.countSlot_contends)
  case collision index echo => exact alone (.line (State.collide_contends index echo))
  case txSuccess echo => exact alone (.line (State.succeed_contends echo))
  case windowExpiry => exact alone .window
  case debtPayment => exact alone (.payment hcause)
  case freezeTimerExpiry =>
    refine .inr ⟨s.endFreeze, _, .endFreeze ?_, rfl⟩
    unfold State.freezeOver at hcause
    split at hcause
    · next f hfreeze => rw [hfreeze]; rfl
    · cases hcause
  case abortHoldExpiry => exact alone (.endHold (by simpa [State.holdOver] using hcause))
  case sweepStep => exact alone (.sweep hcause)
  case startInstant => exact alone (.start hcause)
  case finishDeadline | raceLimit => exact alone effect_of_checkRaceEnd

/-- Every command resets the part or comes to one of the effects, and then to what stands in the Host Port. -/
theorem exec_effect (h : exec i s = .next t) :
    (s.resetBy i ∧ s.ResetTo t i) ∨ ∃ u p, s.Effect i u ∧ t = u.setPort p := by
  obtain ⟨rfl, rfl⟩ | ⟨station, rate, auto, rfl, rfl⟩ | rfl | ⟨judge, hjudge, -, rfl⟩ |
    ⟨cause, act, hevent, -, hcause, rfl⟩ := exec_cases h
  · exact .inr ⟨_, _, .hold, rfl⟩
  · exact .inl ⟨.inl ⟨station, rate, auto, rfl⟩, .inl ⟨station, rate, auto, rfl, rfl⟩⟩
  · exact .inr ⟨_, t.port, .same, rfl⟩
  · exact .inr ⟨_, _, effect_of_judgeOf hjudge, rfl⟩
  · exact effect_of_eventOf hevent hcause

/-! ## Every step -/

/-- The step from `s` to `t` moves the queue, the count of free values and the port alone. -/
structure State.SamePart (s t : State) : Prop where
  moves : t = ((s.setPending t.pending).setChoices t.choices).setPort t.port

theorem State.SamePart.setPort (p : Port) : s.SamePart (s.setPort p) := ⟨rfl⟩

/-- What every command keeps, a microsecond keeps, and hangs on neither the queue, the free values nor the port, every step
keeps. -/
theorem step_preserves {P : State → Prop} (hsame : ∀ {s t}, s.SamePart t → P s → P t)
    (hreset : ∀ {i s t}, P s → s.ResetTo t i → P t) (heffect : ∀ {i s t}, P s → s.Effect i t → P t)
    (htick : ∀ {s}, P s → s.paymentDue = false → P s.microsecond) (h : P s) (hstep : step s = .next t) : P t := by
  have hexec : ∀ {i s t}, P s → exec i s = .next t → P t := fun hs he => by
    obtain ⟨-, hr⟩ | ⟨u, p, hu, rfl⟩ := exec_effect he
    · exact hreset hs hr
    · exact hsame (.setPort p) (heffect hs hu)
  obtain ⟨c, rest, -, he⟩ | ⟨-, -, c, -, he⟩ | ⟨-, -, -, he⟩ | ⟨-, -, -, -, he⟩ | ⟨-, -, rfl⟩ | ⟨-, -, -, -, hdue, rfl⟩ :=
    step_cases hstep
  · exact hexec (hsame ⟨rfl⟩ h) he
  · exact hexec (hsame ⟨rfl⟩ h) he
  · have hpicked : P s.picked := hsame ⟨rfl⟩ h
    obtain ⟨x, rest, c, -, -, hc⟩ | ⟨x, rest, -, -, rfl⟩ | ⟨-, rfl⟩ := clockByte_cases he
    · exact hexec (hsame (.setPort _) hpicked) hc
    · exact hsame (.setPort _) hpicked
    · exact hpicked
  · exact hexec h he
  · exact h
  · exact htick h hdue

end Sys2Proof.Machine
end

section

/-! What the session's work is made of: the moves it takes, each with what stands when it is taken, and that every shared
operation is a chain of them.  What every move keeps, every operation keeps. -/

namespace Sys2Proof.Machine

variable {s t u : State} {st x : Station}

/-! ## The moves -/

/-- One move of the session's work. -/
inductive State.Move (s : State) : State → Prop
  | choices (n : Nat) : s.Move (s.setChoices n)
  | port (p : Port) (hgrows : s.port.Grows p) : s.Move (s.setPort p)
  | link (l : Link) : s.Move (s.setLink l)
  | clock (c : Clock) : s.Move (s.setClock c)
  | table (y : Table) (hfreeze : y.freeze = s.table.freeze) : s.Move (s.setTable y)
  | thaw : s.Move ((s.setTable { s.table with freeze := none }).setMotion { s.motion with frozen := none })
  | lobbySet : s.Move s.recomputeLobby
  | rule (hphase : s.session.phase = .lobby) : s.Move s.resolveRule
  | offers (host effective : Offer) :
    s.Move (s.setSession { s.session with hostOffer := host, effective := effective })
  | ready (b : Bool) (hphase : s.session.phase = .lobby) : s.Move (s.setReadyFlag b)
  | holdEnds : s.Move (s.setSession { s.session with abortHold := none })
  | proposals (q : Vector (Option Time) 16) : s.Move (s.setSession { s.session with proposals := q })
  | proposing (hphase : s.session.phase = .lobby) (hcond : s.conditionA = true) : s.Move s.enterProposing
  | armed (hphase : s.session.phase = .proposing) : s.Move s.enterArmed
  | abort (cause : AbortCause) (who : Option Station)
    (hphase : s.session.phase = .proposing ∨ s.session.phase = .armed) : s.Move (s.abort cause who)
  | start (hphase : s.session.phase = .armed) : s.Move s.start
  | post (c : CarRecord) (hphase : s.session.phase = .armed ∨ s.session.phase.inRace = true) : s.Move (s.setLive c)
  | finish (hphase : s.session.phase = .racing) :
    s.Move ((s.setSession { s.session with phase := .finished }).setProx s.prox.stopped)
  | starter (st : Station) (r r' : Starter) (hstarter : s.standings.at st = some r) (hopen : r.status.open = true)
    (hrace : s.session.phase.inRace = true) : s.Move (s.putStarter st r')
  | timers (earliest deadline : Option Time) (hrace : s.session.phase.inRace = true) :
    s.Move (s.setSession { s.session with earliest := earliest, deadline := deadline })
  | raceOver (cause : EndCause) (hrace : s.session.phase.inRace = true) : s.Move (s.raceOver cause)

/-- A chain of moves. -/
def State.Evolves (s t : State) : Prop := Relation.ReflTransGen State.Move s t

theorem State.Evolves.rfl : s.Evolves s := .refl

theorem State.Evolves.trans (h : s.Evolves t) (k : t.Evolves u) : s.Evolves u := Relation.ReflTransGen.trans h k

theorem State.Move.evolves (h : s.Move t) : s.Evolves t := .single h

/-- What every move keeps, a chain of them keeps. -/
theorem State.Evolves.keeps {P : State → Prop} (hmove : ∀ {s t}, P s → s.Move t → P t) (h : s.Evolves t) (hs : P s) :
    P t := by
  induction h with
  | refl => exact hs
  | tail _ hlast ih => exact hmove ih hlast

theorem foldl_evolves {α : Type} (f : State → α → State) (h : ∀ s a, State.Evolves s (f s a)) (l : List α) :
    ∀ s : State, s.Evolves (l.foldl f s) := by
  induction l with
  | nil => exact fun _ => .rfl
  | cons a l ih => exact fun s => (h s a).trans (ih (f s a))

theorem State.signal_evolves (e : Event) : s.Evolves (s.signal e) := (Move.port _ (Port.occur_grows _ _ _)).evolves

theorem State.signalAt_evolves (e : Event) (st : Station) : s.Evolves (s.signalAt e st) :=
  (Move.port _ (Port.occur_grows _ _ _)).evolves

theorem State.putEntry_evolves (st : Station) (y : Entry) : s.Evolves (s.putEntry st y) :=
  (Move.table (s.table.put st y) rfl).evolves

theorem State.putSender_evolves (st : Station) (y : Sender) : s.Evolves (s.putSender st y) := (Move.link _).evolves

/-! ## The countdown -/

theorem State.recomputeLobby_evolves : s.Evolves s.recomputeLobby := Move.lobbySet.evolves

/-- An abort ends in LOBBY (R99). -/
theorem State.abort_phase (cause : AbortCause) (who : Option Station) : (s.abort cause who).session.phase = .lobby := by
  unfold State.abort
  dsimp only
  rw [State.resolveRule_moves]
  rfl

theorem State.evaluateArmed_evolves (h : s.session.phase = .armed) : s.Evolves s.evaluateArmed := by
  unfold State.evaluateArmed
  dsimp only
  split
  · exact State.recomputeLobby_evolves.trans (Move.abort (s := s.recomputeLobby) _ _ (.inr h)).evolves
  · exact State.recomputeLobby_evolves

theorem State.afterArmed_evolves (h : s.session.phase = .armed) : s.Evolves s.afterArmed := by
  unfold State.afterArmed
  split
  · exact (Move.start h).evolves
  · exact State.evaluateArmed_evolves h

theorem State.evaluateProposing_evolves (h : s.session.phase = .proposing) : s.Evolves s.evaluateProposing := by
  unfold State.evaluateProposing
  dsimp only
  split
  · exact State.recomputeLobby_evolves.trans (Move.abort (s := s.recomputeLobby) _ _ (.inl h)).evolves
  · split
    · exact (State.recomputeLobby_evolves.trans (Move.armed (by exact h)).evolves).trans (State.afterArmed_evolves rfl)
    · exact State.recomputeLobby_evolves

theorem State.enterProposing_phase : s.enterProposing.session.phase = .proposing := by
  obtain ⟨q, h⟩ := State.enterProposing_moves (s := s)
  rw [h]; rfl

theorem State.evaluateLobby_evolves (h : s.session.phase = .lobby) : s.Evolves s.evaluateLobby := by
  have hresolved : s.Evolves s.recomputeLobby.resolveRule :=
    State.recomputeLobby_evolves.trans (Move.rule (s := s.recomputeLobby) h).evolves
  have hphase : s.recomputeLobby.resolveRule.session.phase = .lobby := by rw [State.resolveRule_moves]; exact h
  unfold State.evaluateLobby
  dsimp only
  split
  · next hcond =>
    exact (hresolved.trans (Move.proposing hphase hcond).evolves).trans
      (State.evaluateProposing_evolves State.enterProposing_phase)
  · exact hresolved

/-- A re-evaluation in any phase (R82). -/
theorem State.reevaluate_evolves : s.Evolves s.reevaluate := by
  unfold State.reevaluate
  split
  case h_1 h => exact State.evaluateLobby_evolves h
  case h_2 h => exact State.evaluateProposing_evolves h
  case h_3 h => exact State.evaluateArmed_evolves h
  all_goals exact State.recomputeLobby_evolves

theorem State.Evolves.reevaluate (h : s.Evolves t) : s.Evolves t.reevaluate := h.trans State.reevaluate_evolves

theorem State.recordProposal_evolves (st : Station) : s.Evolves (s.recordProposal st) := by
  obtain ⟨q, h⟩ := State.recordProposal_moves (s := s) st
  rw [h]
  exact (Move.proposals q).evolves

theorem State.sessionToldBeacon_evolves (st : Station) : s.Evolves (s.sessionToldBeacon st) := by
  unfold State.sessionToldBeacon
  split
  case h_1 | h_2 => exact (State.recordProposal_evolves st).reevaluate
  all_goals exact State.reevaluate_evolves

/-! ## The race -/

theorem State.statusChanged_evolves : s.Evolves s.statusChanged := by
  unfold State.statusChanged
  split
  · next h => exact (Move.raceOver _ (by simp at h; exact h.1)).evolves
  · exact .rfl

theorem State.checkRaceEnd_evolves : s.Evolves s.checkRaceEnd := by
  unfold State.checkRaceEnd
  split
  · next hrace =>
    split
    · exact (Move.raceOver _ hrace).evolves
    · exact .rfl
  · exact .rfl

/-- A claim that holds is one of a starter still RUNNING or LOST, in the race (R155). -/
theorem State.open_of_claimHolds {finish : Time} {tag : Byte} (h : s.claimHolds st finish tag = true) :
    s.session.phase.inRace = true ∧ ∃ r, s.standings.at st = some r ∧ r.status.open = true := by
  unfold State.claimHolds at h
  simp only [Bool.and_eq_true] at h
  obtain ⟨⟨⟨hrace, hopen⟩, -⟩, -⟩ := h
  split at hopen
  · cases hopen
  · next r hr => exact ⟨hrace, r, hr, hopen⟩

/-- Noting a finish moves the earliest finish time and the deadline alone (R163). -/
theorem Session.noteFinish_moves (x : Session) (finish : Time) (window : Nat) : x.noteFinish finish window =
    { x with earliest := (x.noteFinish finish window).earliest, deadline := (x.noteFinish finish window).deadline } := by
  unfold Session.noteFinish
  dsimp only
  repeat' split
  all_goals rfl

theorem State.offerClaim_evolves (st : Station) (finish : Time) (tag : Byte) : s.Evolves (s.offerClaim st finish tag) := by
  unfold State.offerClaim
  split
  · next h =>
    obtain ⟨hrace, r, hr, hopen⟩ := State.open_of_claimHolds h
    dsimp only
    refine .trans ?_ State.statusChanged_evolves
    rw [Session.noteFinish_moves]
    refine (Move.starter st r { status := .finished, finish := some finish, heldAt := none } hr hopen hrace).evolves.trans
      ?_
    split
    · exact (Move.timers _ _ (by exact hrace)).evolves
    · exact (State.signalAt_evolves _ _).trans (Move.timers _ _ (by exact hrace)).evolves
  · exact .rfl

theorem State.starterLost_evolves (st : Station) : s.Evolves (s.starterLost st) := by
  unfold State.starterLost
  split
  · next r hr =>
    split
    · next h => exact (Move.starter st r _ hr (by rw [h.2]; rfl) h.1).evolves
    · exact .rfl
  · exact .rfl

theorem State.starterBack_evolves (st : Station) : s.Evolves (s.starterBack st) := by
  unfold State.starterBack
  split
  · next r hr =>
    split
    · next h => exact (Move.starter st r _ hr (by rw [h.2]; rfl) h.1).evolves
    · exact .rfl
  · exact .rfl

/-- The DNF check is due for a LOST starter alone (R159). -/
theorem State.lost_of_dnfDue {r : Starter} (h : s.dnfDue st = true) (hr : s.standings.at st = some r) :
    s.session.phase.inRace = true ∧ r.status = .lost := by
  unfold State.dnfDue at h
  split at h
  · next q _ hq _ =>
    cases hr.symm.trans hq
    simp only [Bool.and_eq_true, beq_iff_eq] at h
    exact h.1
  · cases h

theorem State.dnfCheckOne_evolves (st : Station) : s.Evolves (s.dnfCheckOne st) := by
  unfold State.dnfCheckOne
  split
  · next h =>
    split
    · next r hr =>
      obtain ⟨hrace, hlost⟩ := State.lost_of_dnfDue h hr
      exact (Move.starter st r _ hr (by rw [hlost]; rfl) hrace).evolves.trans State.statusChanged_evolves
    · exact .rfl
  · exact .rfl

theorem State.dnfCheckAt_evolves (place here : Nat) : s.Evolves (s.dnfCheckAt place here) := by
  unfold State.dnfCheckAt State.dnfCheck
  split
  · exact foldl_evolves _ (fun _ st => State.dnfCheckOne_evolves st) _ _
  · exact .rfl

theorem State.standingsTold_evolves (f : Frame) : s.Evolves (s.standingsTold f) := by
  unfold State.standingsTold
  split
  · exact .rfl
  · next r hr =>
    split
    · next h =>
      simp only [Bool.and_eq_true] at h
      obtain ⟨⟨hrace, hopen⟩, -⟩ := h
      split
      · exact (Move.starter _ r _ hr hopen hrace).evolves.trans State.statusChanged_evolves
      · split
        · exact (Move.starter _ r _ hr hopen hrace).evolves
        · exact .rfl
    · exact .rfl

/-! ## Frames applied -/

theorem State.applyBeacon_evolves (f : Frame) (b : Beacon) : s.Evolves (s.applyBeacon f b) :=
  ((State.putEntry_evolves _ _).trans (State.standingsTold_evolves f)).trans (State.sessionToldBeacon_evolves _)

theorem State.offerFrom_evolves (f : Frame) (c : CarRecord) : s.Evolves (s.offerFrom f c) := by
  unfold State.offerFrom
  split
  · exact .rfl
  · exact State.offerClaim_evolves _ _ _

theorem State.applyCar_evolves (f : Frame) (c : CarRecord) (ta : Time) : s.Evolves (s.applyCar f c ta) :=
  (((State.putEntry_evolves _ _).trans (State.offerFrom_evolves f c)).trans (State.standingsTold_evolves f)).reevaluate

theorem State.applyFrame_evolves (f : Frame) (ta : Time) : s.Evolves (s.applyFrame f ta) := by
  unfold State.applyFrame
  split
  · exact State.applyBeacon_evolves f _
  · exact State.applyCar_evolves f _ ta

theorem drainList_evolves (ta : Time) (l : List Frame) : ∀ s : State, s.Evolves (drainList ta l s) := by
  induction l with
  | nil => exact fun _ => .rfl
  | cons f fs ih =>
    intro s
    have hpop : s.Evolves s.popQueue := (State.Move.table { s.table with queue := s.table.queue.tail } rfl).evolves
    exact (hpop.trans (State.applyFrame_evolves f ta)).trans (ih _)

theorem State.endFreeze_evolves : s.Evolves s.endFreeze := by
  unfold State.endFreeze
  split
  · exact .rfl
  · exact (drainList_evolves _ _ s).trans Move.thaw.evolves

theorem State.dropCars_evolves : s.Evolves s.dropCars :=
  (Move.table { s.table with entries := mapAll Entry.withoutCar s.table.entries } rfl).evolves

theorem State.clearTable_evolves : s.Evolves s.clearTable := State.endFreeze_evolves.trans State.dropCars_evolves

/-- A frame joining the queue moves the table and the latch alone (R57 to R59). -/
theorem State.enqueue_moves (f : Frame) : s.enqueue f = (s.setTable (s.enqueue f).table).setPort (s.enqueue f).port := by
  unfold State.enqueue State.joinTail State.makeRoom
  dsimp only
  repeat' split
  all_goals rfl

theorem State.enqueue_freeze (f : Frame) : (s.enqueue f).table.freeze = s.table.freeze := by
  unfold State.enqueue State.joinTail State.makeRoom
  dsimp only
  repeat' split
  all_goals rfl

theorem State.receive_evolves (f : Frame) : s.Evolves (s.receive f) := by
  have hqueued : s.Evolves (s.enqueue f) := by
    rw [State.enqueue_moves]
    exact (Move.table _ (State.enqueue_freeze f)).evolves.trans
      (Move.port _ (by exact (State.enqueue_applies (s := s) f).port)).evolves
  unfold State.receive
  dsimp only
  split
  · exact hqueued
  · exact hqueued.trans (drainList_evolves _ _ _)

/-! ## A window expiry -/

theorem State.judgePresence_evolves (phase : Phase) (st : Station) : s.Evolves (s.judgePresence phase st) := by
  have told : ∀ y e, s.Evolves ((s.putSender st y).signalAt e st) := fun y e =>
    (State.putSender_evolves st y).trans (State.signalAt_evolves e st)
  unfold State.judgePresence
  dsimp only
  split
  case h_1 => exact .rfl
  case h_2 =>
    unfold State.judgeAcquiring
    repeat' split
    · exact (told _ _).reevaluate
    · exact State.putSender_evolves _ _
    · exact .rfl
  case h_3 =>
    unfold State.judgePresent
    split
    · exact State.putSender_evolves _ _
    · exact .rfl
  case h_4 =>
    unfold State.judgeFading
    dsimp only
    repeat' split
    · exact State.putSender_evolves _ _
    · exact .rfl
    · exact ((told _ _).trans (State.starterLost_evolves st)).reevaluate
    · exact State.putSender_evolves _ _
  case h_5 =>
    unfold State.judgeLost
    repeat' split
    · exact ((told _ _).trans (State.starterBack_evolves st)).reevaluate
    · exact ((State.putSender_evolves _ _).trans (State.putEntry_evolves _ _)).reevaluate
    · exact State.putSender_evolves _ _
    · exact .rfl

theorem State.judgeChatter_evolves (st : Station) : s.Evolves (s.judgeChatter st) := by
  unfold State.judgeChatter
  dsimp only
  split
  · exact (State.putSender_evolves _ _).trans (State.signalAt_evolves _ _)
  · exact .rfl

theorem State.judgeSender_evolves (phase : Phase) (st : Station) : s.Evolves (State.judgeSender phase s st) :=
  (State.judgePresence_evolves phase st).trans (State.judgeChatter_evolves st)

theorem State.setClockState_evolves (y : ClockState) : s.Evolves (s.setClockState y) := by
  unfold State.setClockState
  split
  · exact .rfl
  · exact ((Move.clock _).evolves.trans (State.signal_evolves _)).reevaluate

theorem State.steer_evolves (phase : Phase) (samples : List Int) : s.Evolves (s.steer phase samples) := by
  unfold State.steer State.applyTarget
  dsimp only
  repeat' split
  · exact .rfl
  · exact State.setClockState_evolves _
  all_goals exact (State.setClockState_evolves _).trans (Move.clock _).evolves

/-- A whole window expiry (R26, R43, R159). -/
theorem State.windowEvaluation_evolves : s.Evolves s.windowEvaluation := by
  have hjudged : ∀ u phase, State.Evolves u (u.judgeSenders phase) := fun u phase =>
    foldl_evolves _ (fun _ st => State.judgeSender_evolves phase st) _ u
  exact (((((Move.choices _).evolves.trans (State.dnfCheckAt_evolves _ _)).trans (hjudged _ _)).trans
    (State.dnfCheckAt_evolves _ _)).trans ((Move.link _).evolves.trans (State.steer_evolves _ _))).trans
    (State.dnfCheckAt_evolves _ _)

/-! ## Posts and readiness -/

/-- The own finish comes in RACING alone (R113). -/
theorem State.racing_of_postKind {p : CarPost} (h : s.postKind p = .finish) : s.session.phase = .racing := by
  unfold State.postKind at h
  split at h
  · split at h
    · cases h
    · split at h
      · next k => simp at k; exact k.2
      · cases h
  · split at h
    · next k => simp at k; exact k.2
    · cases h

theorem State.takePost_evolves (p : CarPost) (hphase : s.session.phase = .armed ∨ s.session.phase.inRace = true) :
    s.Evolves (s.takePost p).state := by
  have hafter : ∀ c, (s.setLive c).Evolves ((s.setLive c).afterPost (s.postKind p) c) := fun c => by
    unfold State.afterPost
    split
    case h_1 hkind _ =>
      have hracing : s.session.phase = .racing := State.racing_of_postKind hkind
      exact ((Move.finish (s := s.setLive c) hracing).evolves.trans
        (State.offerClaim_evolves _ _ _)).reevaluate
    all_goals exact .rfl
  exact (Move.post _ hphase).evolves.trans (hafter _)

/-- Resolving the rule does not read the ready flag (R83). -/
theorem State.resolveRule_setReadyFlag (b : Bool) : (s.setReadyFlag b).resolveRule = s.resolveRule.setReadyFlag b := by
  have hcommon : (s.setReadyFlag b).commonOffer = s.commonOffer := rfl
  have hsession : (s.setReadyFlag b).session = { s.session with ready := b } := rfl
  unfold State.resolveRule
  simp only [hcommon, hsession]
  split <;> split <;> rfl

/-- CLEAR READY in a countdown is the abort, and the ready flag is cleared in LOBBY (R101). -/
theorem State.abort_setReadyFlag (b : Bool) (cause : AbortCause) (who : Option Station) :
    (s.setReadyFlag b).abort cause who = (s.abort cause who).setReadyFlag b := by
  unfold State.abort
  dsimp only
  rw [← State.resolveRule_setReadyFlag]
  rfl

theorem State.clearReady_evolves (h : s.session.phase = .proposing ∨ s.session.phase = .armed) :
    s.Evolves ((s.setReadyFlag false).abort .host none) := by
  rw [State.abort_setReadyFlag]
  exact (Move.abort _ _ h).evolves.trans (Move.ready _ (State.abort_phase _ _)).evolves

theorem State.setReadyFlag_evolves (b : Bool) (h : s.session.phase = .lobby) :
    s.Evolves (s.setReadyFlag b).reevaluate := (Move.ready b h).evolves.reevaluate

theorem State.setOffer_evolves (offer : Offer) :
    s.Evolves (s.setSession { s.session with hostOffer := offer }).recomputeOffer.reevaluate :=
  (Move.offers offer (effectiveOffer offer s.store)).evolves.reevaluate

theorem State.endHold_evolves : s.Evolves s.endHold := Move.holdEnds.evolves.reevaluate

theorem State.received_evolves (f : Frame) (stamp capture : Time) :
    s.Evolves ((s.countReception f.sender stamp capture).receive f) :=
  (State.putSender_evolves _ _).trans (State.receive_evolves f)

theorem State.armed_of_startReached (h : s.startReached = true) : s.session.phase = .armed := by
  simp [State.startReached] at h
  exact h.1

end Sys2Proof.Machine
end

section

/-! What the session's work can do to the phase and to the starters, said once: only LEAVE and a reset lead to OFFLINE, only
LEAVE, NEW RACE and a reset lead out of the race phases, and within them FINISHED, DNF and WITHDRAWN stand (R154, R155). -/

namespace Sys2Proof.Machine

variable {s t u : State} {st x : Station}

/-- FINISHED, DNF and WITHDRAWN: the statuses that no race event moves (R154). -/
def RaceStatus.final : RaceStatus → Bool
  | .finished => true
  | .dnf => true
  | .withdrawn => true
  | .running => false
  | .lost => false
  | .unfinished => false

theorem RaceStatus.final_iff (x : RaceStatus) : x.final = true ↔ x = .finished ∨ x = .dnf ∨ x = .withdrawn := by
  cases x <;> simp [RaceStatus.final]

theorem RaceStatus.not_open_of_final {x : RaceStatus} (h : x.final = true) : x.open = false := by
  revert h
  cases x <;> decide

theorem Starter.close_of_final {r : Starter} (h : r.status.final = true) : r.close = r := by
  simp [Starter.close, RaceStatus.not_open_of_final h]

theorem Phase.hasStandings_of_inRace {p : Phase} (h : p.inRace = true) : p.hasStandings = true := by
  revert h
  cases p <;> decide

/-- From `s` to `t` the session has not gone to OFFLINE, nor out of the race phases, and in them every final record stands. -/
structure State.RunsOn (s t : State) : Prop where
  offline : t.session.phase = .offline ↔ s.session.phase = .offline
  race : s.session.phase.hasStandings = true → t.session.phase.hasStandings = true
  final : s.session.phase.hasStandings = true → ∀ st r, r.status.final = true → s.standings.at st = some r →
    t.standings.at st = some r

theorem State.RunsOn.rfl : s.RunsOn s := ⟨.refl _, id, fun _ _ _ _ h => h⟩

theorem State.RunsOn.trans (h : s.RunsOn t) (k : t.RunsOn u) : s.RunsOn u :=
  ⟨k.offline.trans h.offline, fun p => k.race (h.race p),
    fun p st r hr hs => k.final (h.race p) st r hr (h.final p st r hr hs)⟩

/-- Where the phase and the starters stay, the session runs on. -/
theorem State.RunsOn.of_same (hphase : t.session.phase = s.session.phase) (hstarters : ∀ st, t.standings.at st = s.standings.at st) :
    s.RunsOn t :=
  ⟨by rw [hphase], fun h => by rw [hphase]; exact h, fun _ st r _ h => by rw [hstarters]; exact h⟩

/-- Between phases before the race, no starter being held to anything. -/
theorem State.RunsOn.of_early (hs : s.session.phase ≠ .offline) (hr : s.session.phase.hasStandings = false)
    (ht : t.session.phase ≠ .offline) : s.RunsOn t :=
  ⟨⟨fun h => absurd h ht, fun h => absurd h hs⟩, fun h => by simp [hr] at h, fun h => by simp [hr] at h⟩

/-- Every move lets the session run on (R154). -/
theorem State.Move.runsOn (h : s.Move t) : s.RunsOn t := by
  have same : ∀ {u : State}, u.session.phase = s.session.phase → u.standings = s.standings → s.RunsOn u :=
    fun hp hs => .of_same hp fun st => by rw [hs]
  cases h with
  | choices | port | link | clock | table | thaw | lobbySet | offers | ready | holdEnds | proposals | post | timers =>
    exact same rfl rfl
  | rule => rw [State.resolveRule_moves]; exact same rfl rfl
  | proposing h => exact .of_early (by rw [h]; nofun) (by rw [h]; rfl) (by rw [State.enterProposing_phase]; nofun)
  | armed h => exact .of_early (by rw [h]; nofun) (by rw [h]; rfl) nofun
  | abort cause who h =>
    obtain h | h := h <;>
      exact .of_early (by rw [h]; nofun) (by rw [h]; rfl) (by rw [State.abort_phase]; nofun)
  | start h => exact .of_early (by rw [h]; nofun) (by rw [h]; rfl) nofun
  | finish h => exact ⟨⟨nofun, fun k => by rw [h] at k; cases k⟩, fun _ => rfl, fun _ _ _ _ k => k⟩
  | starter x r r' hr hopen =>
    refine ⟨.refl _, id, fun _ y q hq hy => ?_⟩
    have hne : y ≠ x := by
      rintro rfl
      cases hr.symm.trans hy
      simp [RaceStatus.not_open_of_final hq] at hopen
    exact (Standings.put_at_ne _ _ hne).trans hy
  | raceOver cause h =>
    refine ⟨⟨nofun, fun k => by rw [k] at h; cases h⟩, fun _ => rfl, fun _ st r hr hs => ?_⟩
    rw [State.raceOver_at, hs, Option.map_some, Starter.close_of_final hr]

theorem State.Evolves.runsOn (h : s.Evolves t) : s.RunsOn t :=
  h.keeps (P := s.RunsOn) (fun hs hm => hs.trans hm.runsOn) .rfl

/-! ## The sweep -/

/-- A sweep step moves the Proximity Monitor and the latch alone (R136). -/
theorem State.search_moves (n : Nat) : ∀ (st : Station) (s : State), State.search n st s =
    (s.setProx (State.search n st s).prox).setPort (State.search n st s).port := by
  have hevents : ∀ (s : State) (st : Station) (a b : ProxState), s.signalDraft st a b =
      s.setPort (s.signalDraft st a b).port := fun s st a b => by
    unfold State.signalDraft; split <;> rfl
  have hcontact : ∀ (s : State) (st : Station) (a b : ProxState), s.signalContact st a b =
      s.setPort (s.signalContact st a b).port := fun s st a b => by
    unfold State.signalContact; split <;> rfl
  induction n with
  | zero => exact fun _ _ => rfl
  | succ n ih =>
    intro st s
    unfold State.search
    split
    · unfold State.evaluatePeer
      dsimp only
      rw [hevents, hcontact]
      rfl
    · rw [ih]
      unfold State.passIneligible
      dsimp only
      rw [hevents]
      rfl

theorem State.sweep_moves : s.sweep = (s.setProx s.sweep.prox).setPort s.sweep.port := by
  unfold State.sweep
  rw [State.search_moves]
  rfl

/-! ## Every command -/

/-- One microsecond of T runs the timers and HDI, and moves nothing else (R41). -/
theorem State.countTimers_moves : s.countTimers = { s with
    bus := { s.bus with period := countDown s.bus.period }
    link := { s.link with window := s.link.window - 1 }
    table := { s.table with freeze := s.table.freeze.map fun f => { f with left := f.left - 1 } }
    session := { s.session with abortHold := countDown s.session.abortHold }
    prox := { s.prox with timer := countDown s.prox.timer }
    port := s.port.tick } := rfl

theorem State.Contends.runsOn (h : s.Contends t) : s.RunsOn t := by
  rw [h.moves]
  exact .of_same (.refl _) fun _ => .refl _

/-- Outside OFFLINE every effect but LEAVE and NEW RACE lets the session run on. -/
theorem State.Effect.runsOn {i : Instr} (h : s.Effect i u) (hoffline : s.session.phase ≠ .offline) :
    (i = .leave ∧ u = s.leaveRace) ∨ (i = .newRace ∧ u = s.newRaceSession.removeRace) ∨ s.RunsOn u := by
  have same : ∀ {t : State}, t.session.phase = s.session.phase → t.standings = s.standings → s.RunsOn t :=
    fun hp hs => .of_same hp fun st => by rw [hs]
  cases h with
  | join h => exact absurd h hoffline
  | leave => exact .inl ⟨rfl, rfl⟩
  | newRace => exact .inr (.inl ⟨rfl, rfl⟩)
  | hold | port | freeze | clearFaults | proxOff | configure | setCourse | setPattern => exact .inr (.inr (same rfl rfl))
  | proxOn => unfold State.proxOn; split <;> exact .inr (.inr (same rfl rfl))
  | payment =>
    unfold State.payMicrosecond
    rw [State.countTimers_moves]
    exact .inr (.inr (same rfl rfl))
  | line h => exact .inr (.inr h.runsOn)
  | received f stamp capture _ h => exact .inr (.inr ((State.received_evolves f stamp capture).runsOn.trans h.runsOn))
  | window => exact .inr (.inr State.windowEvaluation_evolves.runsOn)
  | endFreeze => exact .inr (.inr State.endFreeze_evolves.runsOn)
  | endHold => exact .inr (.inr State.endHold_evolves.runsOn)
  | sweep => rw [State.sweep_moves]; exact .inr (.inr (same rfl rfl))
  | start h => exact .inr (.inr (State.Move.start (State.armed_of_startReached h)).runsOn)
  | raceOver cause h => exact .inr (.inr (State.Move.raceOver cause h).runsOn)
  | setOffer offer => exact .inr (.inr (State.setOffer_evolves offer).runsOn)
  | setReady b h => exact .inr (.inr (State.setReadyFlag_evolves b h).runsOn)
  | clearReady h => exact .inr (.inr (State.clearReady_evolves h).runsOn)
  | post p h => exact .inr (.inr (State.takePost_evolves p h).runsOn)

/-- Settles O29: every command but LEAVE, NEW RACE and the resets comes to an effect that lets the session run on. -/
theorem finalStatusesAreFinal : Obligations.FinalStatusesAreFinal := by
  intro i s t st r hexec hphase hreset hleave hnewRace hr hstatus
  have hoffline : s.session.phase ≠ .offline := fun h => by rw [h] at hphase; cases hphase
  obtain ⟨h, -⟩ | ⟨u, p, heffect, rfl⟩ := exec_effect hexec
  · exact absurd h hreset
  obtain ⟨h, -⟩ | ⟨h, -⟩ | hruns := heffect.runsOn hoffline
  · exact absurd h hleave
  · exact absurd h hnewRace
  · exact hruns.final hphase st r ((RaceStatus.final_iff _).2 hstatus) hr

end Sys2Proof.Machine
end

section

/-! The Race Clock: what a steering evaluation makes of it, which commands move it at all, and so that it stays within the
rules of R43, R48 and R49 and that C does not step back outside LOBBY. -/

namespace Sys2Proof.Machine

variable {s t u : State} {i : Instr}

/-! ## Steering -/

/-- The clock after a steering evaluation, from the clock, the store, the phase and the samples alone (R43 to R48). -/
def Clock.steered (c : Clock) (store : Store) (phase : Phase) (samples : List Int) : Clock :=
  if phase = .offline then c
  else if samples = [] then { c with state := .free }
  else
    { t := c.t
      k := if phase = .lobby then c.k + BitVec.ofInt 32 (steeringTarget samples)
        else if 0 < steeringTarget samples then c.k + BitVec.ofInt 32 (min (steeringTarget samples) store.slew) else c.k
      debt := if phase = .lobby ∨ 0 < steeringTarget samples then 0 else min (steeringTarget samples).natAbs store.slew
      payment := 0
      state := if (steeringTarget samples).natAbs ≤ store.lockBound then .locked else .drifting }

theorem State.steer_offline (samples : List Int) : s.steer .offline samples = s := rfl

/-- A steering evaluation leaves this clock (R43 to R48). -/
theorem State.steer_clock (phase : Phase) (samples : List Int) :
    (s.steer phase samples).clock = s.clock.steered s.store phase samples := by
  unfold State.steer Clock.steered
  by_cases hoffline : phase = .offline
  · simp [hoffline]
  by_cases hempty : samples = []
  · simp [hoffline, hempty, State.setClockState_clock]
  have hstore : ∀ x, (s.setClockState x).store = s.store := fun x => (State.setClockState_keeps x).store
  by_cases hlobby : phase = .lobby
  · simp [hempty, hlobby, State.applyTarget, Clock.stepWhole, State.setClockState_clock]
  by_cases htarget : 0 < steeringTarget samples <;>
    simp [hoffline, hempty, hlobby, htarget, State.applyTarget, Clock.stepLimited, State.setClockState_clock, hstore]

/-- A window expiry with every sender judged, and the DNF check made where it comes first (R26, R159; assumption 4). -/
def State.expiryJudged (s : State) : State :=
  (s.picked.dnfCheckAt (s.pick Config.dnfOrder 3) 0).judgeSenders s.session.phase

/-- The samples that a window expiry steers by: those usable after its judgement, the DNF check moving none (R26, R44). -/
def State.expirySamples (s : State) : List Int := s.expiryJudged.link.usable

/-- What the judgement of every sender leaves alone (R26). -/
theorem State.expiryJudged_judges : s.picked.Judges s.expiryJudged :=
  (State.dnfCheckAt_quiet _ _).judges.trans (State.judgeSenders_judges _)

/-- After the judgement a window expiry begins the next window, steers the clock, and leaves the table (R26, R43). -/
theorem State.windowEvaluation_rest :
    s.windowEvaluation.link = s.expiryJudged.link.newWindow s.store.windowLength ∧
      s.windowEvaluation.clock = s.clock.steered s.store s.session.phase s.expirySamples ∧
      s.windowEvaluation.table = s.expiryJudged.table := by
  have hjudged := State.expiryJudged_judges (s := s)
  have hbetween := State.dnfCheckAt_quiet (s := s.expiryJudged) (s.pick Config.dnfOrder 3) 1
  have hunfold : s.windowEvaluation = ((s.expiryJudged.dnfCheckAt (s.pick Config.dnfOrder 3) 1).handOff
      s.session.phase).dnfCheckAt (s.pick Config.dnfOrder 3) 2 := rfl
  have hlast := State.dnfCheckAt_quiet (s := (s.expiryJudged.dnfCheckAt (s.pick Config.dnfOrder 3) 1).handOff
    s.session.phase) (s.pick Config.dnfOrder 3) 2
  rw [hunfold, hlast.link, hlast.clock, hlast.table, State.handOff_link]
  unfold State.handOff
  rw [State.steer_clock, State.steer_table, State.setLink_clock, State.setLink_store, State.setLink_table, hbetween.link,
    hbetween.clock, hbetween.store, hbetween.table, hjudged.clock, hjudged.store]
  exact ⟨rfl, rfl, rfl⟩

/-! ## Which commands move the clock -/

theorem State.leaveRace_clock : s.leaveRace.clock = { s.clock with k := 0, debt := 0, payment := 0, state := .free } := by
  unfold State.leaveRace State.freeClock
  dsimp only
  rw [State.removeRace_applies.clock, State.setClockState_clock, State.setClock_clock, State.setBus_clock,
    State.leaveSession_quiet.clock]

theorem State.joinLobby_clock : s.joinLobby.clock = s.clock := State.reevaluate_quiet.clock

theorem State.release_clock (straps : Straps) : (s.release straps).clock = Clock.powerOn := by
  unfold State.release
  dsimp only
  split
  · exact State.joinLobby_clock
  · rfl

theorem State.payMicrosecond_clock : s.payMicrosecond.clock = s.clock.pay := rfl

/-- A reset leaves the clock as at power-on (R54). -/
theorem State.ResetTo.clock (h : s.ResetTo u i) : u.clock = Clock.powerOn := by
  obtain ⟨_, _, _, -, rfl⟩ | rfl := h
  · exact State.release_clock _
  · rfl

/-- The clock stands but at LEAVE, at a window expiry and at a payment of the debt. -/
theorem State.Effect.clock (h : s.Effect i u) :
    u.clock = s.clock ∨
      (i = .leave ∧ u.clock = { s.clock with k := 0, debt := 0, payment := 0, state := .free }) ∨
      (i = .windowExpiry ∧ u.clock = s.clock.steered s.store s.session.phase s.expirySamples) ∨
      (s.paymentDue = true ∧ u.clock = s.clock.pay) := by
  cases h with
  | leave => exact .inr (.inl ⟨rfl, State.leaveRace_clock⟩)
  | window => exact .inr (.inr (.inl ⟨rfl, State.windowEvaluation_rest.2.1⟩))
  | payment h => exact .inr (.inr (.inr ⟨h, rfl⟩))
  | hold | port | freeze | clearFaults | proxOff | configure | setCourse | setPattern => exact .inl rfl
  | proxOn => unfold State.proxOn; split <;> exact .inl rfl
  | line h => rw [h.moves]; exact .inl rfl
  | received f stamp capture _ h =>
    rw [h.moves]
    exact .inl ((State.receive_applies f).clock)
  | endFreeze => exact .inl State.endFreeze_applies.clock
  | endHold => exact .inl State.reevaluate_quiet.clock
  | sweep => exact .inl State.sweep_quiet.clock
  | start => exact .inl State.start_quiet.clock
  | raceOver cause => exact .inl (State.raceOver_quiet cause).clock
  | join => exact .inl State.joinLobby_clock
  | newRace => exact .inl (State.newRaceSession_quiet.toApplies.trans State.removeRace_applies).clock
  | setOffer | setReady => exact .inl State.reevaluate_quiet.clock
  | clearReady => exact .inl (State.abort_quiet _ _).clock
  | post p => exact .inl (State.takePost_quiet p).clock

/-! ## C does not step back -/

theorem tdiff_add_self (a d : Time) : tdiff (a + d) a = d.toInt := by
  have hcancel : a + d - a = d := by bv_omega
  rw [tdiff, hcancel]

/-- A step forward of at most 500 µs, as a 32-bit number, is that number (R48). -/
theorem toInt_ofInt_of_le {n : Int} (h0 : 0 ≤ n) (h1 : n ≤ 500) : (BitVec.ofInt 32 n).toInt = n := by
  rw [BitVec.toInt_ofInt]
  exact Int.bmod_eq_of_le (by omega) (by omega)

/-- Outside LOBBY a steering evaluation moves k by 0 to the slew (R46, R48). -/
theorem Clock.steered_k {c : Clock} {store : Store} {phase : Phase} (h : phase ≠ .lobby) (samples : List Int) :
    ∃ n : Int, 0 ≤ n ∧ n ≤ store.slew ∧ (c.steered store phase samples).k = c.k + BitVec.ofInt 32 n := by
  unfold Clock.steered
  by_cases hsteers : phase = .offline ∨ samples = [] ∨ ¬ 0 < steeringTarget samples
  · refine ⟨0, le_refl _, Int.natCast_nonneg _, ?_⟩
    rcases hsteers with h' | h' | h'
    · simp [h']
    · rw [if_pos h']
      split <;> simp
    · simp only [if_neg h, if_neg h']
      repeat' split
      all_goals simp
  · simp only [not_or, not_not] at hsteers
    obtain ⟨hoffline, hsamples, htarget⟩ := hsteers
    refine ⟨min (steeringTarget samples) store.slew, by omega, by omega, ?_⟩
    simp [hoffline, hsamples, h, htarget]

theorem Clock.steered_t (c : Clock) (store : Store) (phase : Phase) (samples : List Int) :
    (c.steered store phase samples).t = c.t := by
  unfold Clock.steered
  repeat' split
  all_goals rfl

/-- Settles O49: the clock stands, or pays 1 µs as T advances by 1 µs, or outside LOBBY is steered forward by at most the
slew. -/
theorem theRaceClockNeverStepsBack : Obligations.TheRaceClockNeverStepsBack := by
  intro i s t hstore hexec hreset hleave hlobby
  obtain ⟨h, -⟩ | ⟨u, p, heffect, rfl⟩ := exec_effect hexec
  · exact absurd h hreset
  have hnow : ∀ c : Clock, u.clock = c → (u.setPort p).now = c.t + c.k := fun c h => by rw [← h]; rfl
  have stands : (u.setPort p).now = s.now → 0 ≤ tdiff (u.setPort p).now s.now ∧ tdiff (u.setPort p).now s.now ≤ 500 :=
    fun h => by rw [h, tdiff_self]; omega
  obtain hclock | ⟨rfl, -⟩ | ⟨rfl, hclock⟩ | ⟨-, hclock⟩ := heffect.clock
  · exact stands (hnow _ hclock)
  · exact absurd rfl hleave
  · obtain ⟨n, h0, hslew, hk⟩ := Clock.steered_k (c := s.clock) (store := s.store) (phase := s.session.phase)
      (fun h => hlobby ⟨rfl, h⟩) s.expirySamples
    have h500 : n ≤ 500 := by have := hstore.slew.2; omega
    have hadd : (u.setPort p).now = s.now + BitVec.ofInt 32 n := by
      rw [hnow _ hclock, Clock.steered_t, hk, ← BitVec.add_assoc]; rfl
    rw [hadd, tdiff_add_self, toInt_ofInt_of_le h0 h500]
    exact ⟨h0, h500⟩
  · refine stands ((hnow _ hclock).trans ?_)
    show s.clock.t + 1 + (s.clock.k - 1) = s.clock.t + s.clock.k
    bv_omega

/-! ## The clock stays within the rules -/

/-- A clock as at power-on is within the rules in every phase (R54). -/
theorem State.ClockOk.of_zero (hdebt : u.clock.debt = 0) (hpayment : u.clock.payment = 0) (hk : u.clock.k = 0)
    (hfree : u.clock.state = .free) : u.ClockOk :=
  ⟨by omega, fun _ => hpayment, by omega, fun _ => ⟨hfree, hk, hdebt⟩⟩

/-- A steering evaluation keeps the payment count, the debt, and in OFFLINE all of the clock (R43, R44, R47, R48). -/
theorem State.ClockOk.steered {samples : List Int} (h : s.ClockOk)
    (hclock : u.clock = s.clock.steered s.store s.session.phase samples)
    (hstore : u.store = s.store) (hphase : u.session.phase = .offline → s.session.phase = .offline) : u.ClockOk := by
  have hoffline : s.session.phase = .offline → u.clock = s.clock := fun k => by
    rw [hclock, Clock.steered, if_pos k]
  by_cases hsteers : s.session.phase = .offline ∨ samples = []
  · have hpay : u.clock.payment = s.clock.payment ∧ u.clock.debt = s.clock.debt := by
      rw [hclock, Clock.steered]
      rcases hsteers with k | k
      · simp [k]
      · rw [if_pos k]
        split <;> simp
    refine ⟨by rw [hpay.1]; exact h.payment, by rw [hpay.1, hpay.2]; exact h.idle,
      by rw [hpay.2, hstore]; exact h.debt, fun k => ?_⟩
    rw [hoffline (hphase k)]
    exact h.offline (hphase k)
  · have hpay : u.clock.payment = 0 ∧ u.clock.debt ≤ s.store.slew := by
      simp only [not_or] at hsteers
      rw [hclock, Clock.steered, if_neg hsteers.1, if_neg hsteers.2]
      dsimp only
      refine ⟨rfl, ?_⟩
      split <;> omega
    refine ⟨by omega, fun _ => hpay.1, by rw [hstore]; exact hpay.2, fun k => ?_⟩
    exact absurd (.inl (hphase k)) hsteers

/-- A clock that stands is within the rules where the slew stands too and no OFFLINE has been entered. -/
theorem State.ClockOk.stands (h : s.ClockOk) (hclock : u.clock = s.clock)
    (hslew : u.store = s.store ∨ s.session.phase = .offline)
    (hphase : u.session.phase = .offline → s.session.phase = .offline) : u.ClockOk := by
  refine ⟨by rw [hclock]; exact h.payment, by rw [hclock]; exact h.idle, ?_, fun k => by
    rw [hclock]; exact h.offline (hphase k)⟩
  rw [hclock]
  rcases hslew with k | k
  · rw [k]; exact h.debt
  · rw [(h.offline k).2.2]; exact Nat.zero_le _

/-- The payment due brings the debt down by one and starts a new group of eight (R49); there is none in OFFLINE (R43). -/
theorem State.ClockOk.pays (h : s.ClockOk) (hdue : s.paymentDue = true) (hclock : u.clock = s.clock.pay)
    (hstore : u.store = s.store) (hphase : u.session.phase = .offline → s.session.phase = .offline) : u.ClockOk := by
  have hdebt : 0 < s.clock.debt := by simp [State.paymentDue, Clock.paymentDue] at hdue; exact hdue.1
  have hle := h.debt
  refine ⟨by rw [hclock]; simp [Clock.pay], fun _ => by rw [hclock]; rfl, ?_, fun k => ?_⟩
  · rw [hclock, hstore]
    show s.clock.debt - 1 ≤ s.store.slew
    omega
  · have := (h.offline (hphase k)).2.2
    omega

/-! ## Where OFFLINE is entered, and where the configuration is moved -/

/-- NEW RACE has the Session Controller resolve the rule in LOBBY and nothing more, the player being not ready (R76, R91). -/
theorem State.newRaceSession_eq : s.newRaceSession = (s.setSession { s.session.dissolve.stopTimers with
    phase := .lobby, ready := false, abortHold := none }).recomputeLobby.resolveRule :=
  State.reevaluate_lobby rfl (.inl rfl)

theorem State.newRace_phase : s.newRaceSession.removeRace.session.phase ≠ .offline := by
  have hlobby : s.newRaceSession.session.phase = .lobby := by
    rw [State.newRaceSession_eq, State.resolveRule_moves]; rfl
  unfold State.removeRace
  dsimp only
  rw [Ne, State.clearTable_evolves.runsOn.offline]
  show s.newRaceSession.session.phase ≠ .offline
  rw [hlobby]
  nofun

/-- A reset apart, only LEAVE leads to OFFLINE (R71, R74). -/
theorem State.Effect.offline (h : s.Effect i u) (hphase : u.session.phase = .offline) :
    s.session.phase = .offline ∨ (i = .leave ∧ u = s.leaveRace) := by
  by_cases hoffline : s.session.phase = .offline
  · exact .inl hoffline
  obtain hleave | ⟨-, rfl⟩ | hruns := h.runsOn hoffline
  · exact .inr hleave
  · exact absurd hphase State.newRace_phase
  · exact .inl (hruns.offline.1 hphase)

/-- The straps, the store and the patterns stand (R192, R200). -/
structure State.Fixed (s t : State) : Prop where
  straps : t.straps = s.straps
  store : t.store = s.store
  patterns : t.patterns = s.patterns

theorem State.Keeps.fixed (h : s.Keeps t) : s.Fixed t := ⟨h.straps, h.store, h.patterns⟩

theorem State.Fixed.trans (h : s.Fixed t) (k : t.Fixed u) : s.Fixed u :=
  ⟨k.straps.trans h.straps, k.store.trans h.store, k.patterns.trans h.patterns⟩

theorem State.Contends.fixed (h : s.Contends t) : s.Fixed t := by
  rw [h.moves]
  exact ⟨.refl _, .refl _, .refl _⟩

theorem State.joinLobby_fixed : s.Fixed s.joinLobby := by
  unfold State.joinLobby
  dsimp only
  refine .trans ?_ State.reevaluate_quiet.fixed
  exact ⟨rfl, rfl, rfl⟩

/-- A microsecond of T counts the timers down and moves nothing of the configuration (R41). -/
theorem State.countTimers_fixed : s.Fixed s.countTimers := by
  rw [State.countTimers_moves]
  exact ⟨rfl, rfl, rfl⟩

theorem State.microsecond_fixed : s.Fixed s.microsecond := State.countTimers_fixed.trans ⟨rfl, rfl, rfl⟩

theorem State.payMicrosecond_fixed : s.Fixed s.payMicrosecond := State.countTimers_fixed.trans ⟨rfl, rfl, rfl⟩

theorem State.leaveRace_fixed : s.leaveRace.Fixed s := by
  have hrest := State.freeClock_keeps (s := s.leaveSession.setBus s.leaveSession.bus.close) |>.trans
    State.removeRace_applies.toKeeps
  have hsession := (State.leaveSession_quiet (s := s)).toKeeps
  exact ⟨(hrest.straps.trans hsession.straps).symm, (hrest.store.trans hsession.store).symm,
    (hrest.patterns.trans hsession.patterns).symm⟩

/-- A reset leaves the default store (R200). -/
theorem State.ResetTo.store (h : s.ResetTo u i) : u.store = Store.default := by
  obtain ⟨_, _, _, -, rfl⟩ | rfl := h
  · exact State.release_store _
  · rfl

/-- The release of the reset pin alone samples the straps (R200, R202). -/
theorem State.ResetTo.straps (h : s.ResetTo u i) :
    u.straps = s.straps ∨ ∃ station rate auto, i = .resetRelease station rate auto := by
  obtain ⟨station, rate, auto, rfl, -⟩ | rfl := h
  · exact .inr ⟨station, rate, auto, rfl⟩
  · exact .inl rfl

/-- What each command can do to the straps, the store and the patterns, a reset apart: nothing; or in OFFLINE a CONFIGURE, a
SET COURSE or a SET PATTERN (R192, R194). -/
theorem State.Effect.configuration (h : s.Effect i u) : s.Fixed u ∨
    (s.session.phase = .offline ∧ u.straps = s.straps ∧
      (u.store = s.store ∨ (∃ p, u.store = storeOf p s.store.courses) ∨
        ∃ n length, u.store = s.store.withCourse n (storedLength length))) := by
  cases h with
  | configure p h => exact .inr ⟨h, rfl, .inr (.inl ⟨p, rfl⟩)⟩
  | setCourse n length h => exact .inr ⟨h, rfl, .inr (.inr ⟨n, length, rfl⟩)⟩
  | setPattern x h => exact .inr ⟨h, rfl, .inl rfl⟩
  | leave =>
    have h := State.leaveRace_fixed (s := s)
    exact .inl ⟨h.straps.symm, h.store.symm, h.patterns.symm⟩
  | payment => exact .inl State.payMicrosecond_fixed
  | hold | port | freeze | clearFaults | proxOff => exact .inl ⟨rfl, rfl, rfl⟩
  | proxOn => unfold State.proxOn; split <;> exact .inl ⟨rfl, rfl, rfl⟩
  | line h => exact .inl h.fixed
  | received f stamp capture _ h =>
    exact .inl (((State.putSender_keeps _ _).trans (State.receive_applies f).toKeeps).fixed.trans h.fixed)
  | window =>
    have h := (State.windowEvaluation_keeps (s := s)).fixed
    exact .inl ⟨h.straps, h.store, h.patterns⟩
  | endFreeze => exact .inl State.endFreeze_applies.fixed
  | endHold => exact .inl ((State.setSession_quiet _).trans State.reevaluate_quiet).fixed
  | sweep => exact .inl State.sweep_quiet.fixed
  | start => exact .inl State.start_quiet.fixed
  | raceOver cause => exact .inl (State.raceOver_quiet cause).fixed
  | join =>
    exact .inl State.joinLobby_fixed
  | newRace => exact .inl (State.newRaceSession_quiet.toApplies.trans State.removeRace_applies).fixed
  | setOffer =>
    exact .inl (((State.setSession_quiet _).trans (State.setSession_quiet _)).trans State.reevaluate_quiet).fixed
  | setReady => exact .inl ((State.setSession_quiet _).trans State.reevaluate_quiet).fixed
  | clearReady => exact .inl ((State.setSession_quiet _).trans (State.abort_quiet _ _)).fixed
  | post p => exact .inl (State.takePost_quiet p).fixed

/-- Settles O60: the effects that move the configuration are those of OFFLINE and the resets. -/
theorem configurationStandsThroughASession : Obligations.ConfigurationStandsThroughASession := by
  intro i s t hexec
  obtain ⟨hreset, hto⟩ | ⟨u, p, heffect, rfl⟩ := exec_effect hexec
  · refine ⟨fun _ h => absurd hreset h, fun h => hto.straps.elim id ?_⟩
    rintro ⟨station, rate, auto, rfl⟩
    exact absurd rfl (h station rate auto)
  obtain hfixed | ⟨hphase, hstraps, -⟩ := heffect.configuration
  · exact ⟨fun _ _ => ⟨hfixed.store, hfixed.patterns⟩, fun _ => hfixed.straps⟩
  · exact ⟨fun h => absurd hphase h, fun _ => hstraps⟩

/-! ## Every step keeps the store in range -/

theorem Store.default_inRange : Store.default.InRange := by
  constructor <;> decide

/-- CONFIGURE stores in range whatever its operands are, and keeps the courses (R192). -/
theorem storeOf_inRange (p : Parameters) {courses : Vector Nat 8}
    (h : ∀ n ∈ courses.toList, n = 0 ∨ (50000 ≤ n ∧ n ≤ 8000000)) : (storeOf p courses).InRange := by
  constructor
  case courses => exact h
  case period => simp only [storeOf, storedPeriod, clampNat]; omega
  all_goals simp only [storeOf, clampNat]; omega

theorem storedLength_inRange (n : Nat) : storedLength n = 0 ∨ (50000 ≤ storedLength n ∧ storedLength n ≤ 8000000) := by
  unfold storedLength clampNat
  split <;> omega

theorem Store.InRange.withCourse {c : Store} (h : c.InRange) (i n : Nat) : (c.withCourse i (storedLength n)).InRange := by
  refine ⟨h.period, h.window, h.on, h.off, h.dropout, h.horizon, h.blend, h.snap, h.startLead, h.finishWindow,
    h.dnfTimeout, h.linkDelay, h.slew, h.lockBound, h.sweepGap, h.contactLength, h.contactWidth, h.draftLength,
    h.draftWidth, fun m hm => ?_⟩
  obtain ⟨k, hk, rfl⟩ := List.getElem_of_mem hm
  have hk' : k < 8 := by simpa using hk
  rw [Vector.getElem_toList, Store.withCourse_get _ _ _ _ hk']
  split
  · exact storedLength_inRange n
  · exact h.courses _ (by simp)

/-- Settles O56: the store is in range after CONFIGURE, after SET COURSE and after a reset, and stands otherwise. -/
theorem stepsKeepTheStoreInRange : Obligations.StepsKeepTheStoreInRange := by
  intro s t h hstep
  refine step_preserves (P := fun s => s.store.InRange) (fun hsame h => ?_)
    (fun _ hto => hto.store ▸ Store.default_inRange) (fun h heffect => ?_)
    (fun h _ => by rw [State.microsecond_fixed.store]; exact h) h hstep
  · rw [hsame.moves]
    exact h
  · obtain hfixed | ⟨-, -, hstore | ⟨p, hstore⟩ | ⟨n, length, hstore⟩⟩ := heffect.configuration
    · exact hfixed.store ▸ h
    · exact hstore ▸ h
    · exact hstore ▸ storeOf_inRange p h.courses
    · exact hstore ▸ h.withCourse n length

/-! ## Every step keeps the clock within the rules -/

/-- A microsecond without a payment keeps the count below 8 (R49). -/
theorem Clock.advance_payment {c : Clock} (h : c.payment ≤ 7) (hdue : c.paymentDue = false) : c.advance.payment ≤ 7 := by
  simp [Clock.paymentDue] at hdue
  unfold Clock.advance
  dsimp only
  split <;> omega

theorem State.ClockOk.microsecond (h : s.ClockOk) (hdue : s.paymentDue = false) : s.microsecond.ClockOk := by
  obtain ⟨hclock, hphase⟩ : s.microsecond.clock = s.clock.advance ∧ s.microsecond.session.phase = s.session.phase := by
    unfold State.microsecond
    rw [State.countTimers_moves]
    simp
  refine ⟨?_, fun k => ?_, ?_, fun k => ?_⟩
  · rw [hclock]
    exact Clock.advance_payment h.payment hdue
  · rw [hclock] at k ⊢
    have hdebt : s.clock.debt = 0 := k
    simp [Clock.advance, hdebt, h.idle hdebt]
  · rw [State.microsecond_fixed.store]
    exact h.debt
  · rw [hphase] at k
    exact h.offline k

/-- Every effect lets the clock stand, steers it, pays 1 µs of the debt, or leaves it at 0. -/
theorem State.ClockOk.effect (h : s.ClockOk) (heffect : s.Effect i u) : u.ClockOk := by
  by_cases hleave : i = .leave ∧ u = s.leaveRace
  · obtain ⟨-, rfl⟩ := hleave
    exact .of_zero (by rw [State.leaveRace_clock]) (by rw [State.leaveRace_clock]) (by rw [State.leaveRace_clock])
      (by rw [State.leaveRace_clock])
  have hphase : u.session.phase = .offline → s.session.phase = .offline := fun k =>
    (heffect.offline k).resolve_right hleave
  have hslew : u.store = s.store ∨ s.session.phase = .offline :=
    heffect.configuration.imp (fun k => k.store) fun k => k.1
  obtain hclock | ⟨-, hclock⟩ | ⟨rfl, hclock⟩ | ⟨hdue, hclock⟩ := heffect.clock
  · exact h.stands hclock hslew hphase
  · exact .of_zero (by rw [hclock]) (by rw [hclock]) (by rw [hclock]) (by rw [hclock])
  · obtain hfixed | ⟨hoffline, -⟩ := heffect.configuration
    · exact h.steered hclock hfixed.store hphase
    · exact h.stands (by rw [hclock, Clock.steered, if_pos hoffline]) (.inr hoffline) hphase
  · have hdebt : 0 < s.clock.debt := by
      simp [State.paymentDue, Clock.paymentDue] at hdue
      exact hdue.1
    obtain hstore | hoffline := hslew
    · exact h.pays hdue hclock hstore hphase
    · have := (h.offline hoffline).2.2
      omega

/-- Settles O58. -/
theorem stepsKeepTheClockOk : Obligations.StepsKeepTheClockOk := by
  intro s t h hstep
  refine step_preserves (P := State.ClockOk) (fun hsame h => ?_) (fun _ hto => ?_) (fun h heffect => h.effect heffect)
    (fun h hdue => h.microsecond hdue) h hstep
  · rw [hsame.moves]
    exact ⟨h.payment, h.idle, h.debt, h.offline⟩
  · have hclock := hto.clock
    exact .of_zero (by rw [hclock]; rfl) (by rw [hclock]; rfl) (by rw [hclock]; rfl) (by rw [hclock]; rfl)

end Sys2Proof.Machine
end

section

/-! The Receive Queue and the own station: what queueing, applying and draining make of the Peer Table, and that every step
keeps the queue within R57 to R60 and the own station's records at their reset values (R24, R55, R134). -/

namespace Sys2Proof.Machine

variable {s t u : State} {i : Instr} {st : Station}

/-! ## The Peer Table -/

/-- The entry of a frame's sender once the frame is applied (R61, R62). -/
def State.appliedEntry (s : State) (f : Frame) (ta : Time) : Entry :=
  match f.body with
  | .beacon b => (s.table.at f.sender).withBeacon f.tag b
  | .car c => (s.table.at f.sender).withCar f.tag c (s.newResidual f.sender f.tag c ta) ta

/-- Applying a frame moves its sender's entry and nothing else of the table (R60 to R62). -/
theorem State.applyFrame_table (f : Frame) (ta : Time) :
    (s.applyFrame f ta).table = s.table.put f.sender (s.appliedEntry f ta) := by
  unfold State.applyFrame State.appliedEntry
  cases f.body with
  | beacon b =>
    unfold State.applyBeacon
    rw [(State.sessionToldBeacon_quiet _).table, (State.standingsTold_quiet f).table]
    rfl
  | car c =>
    unfold State.applyCar
    rw [State.reevaluate_quiet.table, (State.standingsTold_quiet f).table, (State.offerFrom_quiet f c).table]
    rfl

theorem State.popQueue_applyFrame_table (f : Frame) (ta : Time) : (s.popQueue.applyFrame f ta).table =
    { s.table with queue := s.table.queue.tail }.put f.sender (s.appliedEntry f ta) := by
  rw [State.applyFrame_table]
  rfl

/-- A drain leaves the freeze and the counters, and takes as many frames from the head as it applies (R66). -/
theorem drainList_rest (ta : Time) (l : List Frame) : ∀ s : State,
    (drainList ta l s).table.queue = s.table.queue.drop l.length ∧ (drainList ta l s).table.freeze = s.table.freeze ∧
      (drainList ta l s).table.merges = s.table.merges ∧ (drainList ta l s).table.overruns = s.table.overruns := by
  induction l with
  | nil => exact fun _ => ⟨rfl, rfl, rfl, rfl⟩
  | cons f fs ih =>
    intro s
    obtain ⟨hqueue, hfreeze, hmerges, hoverruns⟩ := ih (s.popQueue.applyFrame f ta)
    rw [State.popQueue_applyFrame_table] at hqueue hfreeze hmerges hoverruns
    exact ⟨by rw [drainList, hqueue]; simp, hfreeze, hmerges, hoverruns⟩

theorem State.drain_queue (ta : Time) : (s.drain ta).table.queue = [] := by
  unfold State.drain
  rw [(drainList_rest ta _ s).1, List.drop_length]

theorem State.drain_freeze (ta : Time) : (s.drain ta).table.freeze = s.table.freeze := (drainList_rest ta _ s).2.1

/-- A drain leaves the entry of a station none of whose frames it applies (R66). -/
theorem drainList_at (ta : Time) (l : List Frame) : ∀ s : State, (∀ f ∈ l, f.sender ≠ st) →
    (drainList ta l s).table.at st = s.table.at st := by
  induction l with
  | nil => exact fun _ _ => rfl
  | cons f fs ih =>
    intro s h
    have hne : st ≠ f.sender := (h f (List.mem_cons_self ..)).symm
    rw [drainList, ih _ fun g hg => h g (List.mem_cons_of_mem f hg), State.popQueue_applyFrame_table,
      Table.put_at_ne _ _ hne]
    rfl

/-! ## The queue -/

theorem queued_iff (q : List Frame) : queued st q = true ↔ st ∈ q.map Frame.sender := by
  simp [queued, List.mem_map]

theorem mergeInto_senders (f : Frame) (q : List Frame) : (mergeInto f q).map Frame.sender = q.map Frame.sender := by
  induction q with
  | nil => rfl
  | cons g gs ih =>
    unfold mergeInto
    split
    · next h => simp [h]
    · simp [ih]

theorem mergeInto_length (f : Frame) (q : List Frame) : (mergeInto f q).length = q.length := by
  have h := congrArg List.length (mergeInto_senders f q)
  simpa using h

/-- The queue as a frame leaves it: its sender's entry replaced in place, or the frame at the tail, the head discarded where 8
were waiting (R57, R58). -/
def Table.queueWith (y : Table) (f : Frame) : List Frame :=
  if queued f.sender y.queue then mergeInto f y.queue
  else (if Config.queueDepth ≤ y.queue.length then y.queue.tail else y.queue) ++ [f]

theorem State.makeRoom_queue : s.makeRoom.table.queue =
    if Config.queueDepth ≤ s.table.queue.length then s.table.queue.tail else s.table.queue := by
  unfold State.makeRoom
  split
  · next h => simp [h]
  · next g gs h =>
    split
    · rw [h]; rfl
    · rfl

theorem State.joinTail_queue (f : Frame) : (s.joinTail f).table.queue = s.table.queue ++ [f] := by
  unfold State.joinTail
  dsimp only
  split <;> rfl

theorem State.enqueue_queue (f : Frame) : (s.enqueue f).table.queue = s.table.queueWith f := by
  unfold State.enqueue Table.queueWith
  split
  · rfl
  · rw [State.joinTail_queue, State.makeRoom_queue]

/-- A frame joining the queue leaves every entry (R57, R58). -/
theorem State.enqueue_entries (f : Frame) : (s.enqueue f).table.entries = s.table.entries := by
  unfold State.enqueue State.joinTail State.makeRoom
  dsimp only
  repeat' split
  all_goals rfl

theorem Table.mem_queueWith {y : Table} {f g : Frame} (h : g ∈ y.queueWith f) :
    g.sender = f.sender ∨ g.sender ∈ y.queue.map Frame.sender := by
  have hg : g.sender ∈ (y.queueWith f).map Frame.sender := List.mem_map_of_mem h
  unfold Table.queueWith at hg
  split at hg
  · rw [mergeInto_senders] at hg
    exact .inr hg
  · simp only [List.map_append, List.mem_append, List.map_cons, List.map_nil, List.mem_singleton] at hg
    refine hg.symm.imp_right fun k => ?_
    split at k
    · rw [List.map_tail] at k
      exact List.mem_of_mem_tail k
    · exact k

theorem Table.queueWith_ok {y : Table} {f : Frame} (hlength : y.queue.length ≤ Config.queueDepth)
    (hsenders : (y.queue.map Frame.sender).Nodup) :
    (y.queueWith f).length ≤ Config.queueDepth ∧ ((y.queueWith f).map Frame.sender).Nodup := by
  have hdepth : Config.queueDepth = 8 := rfl
  unfold Table.queueWith
  split
  · rw [mergeInto_length, mergeInto_senders]
    exact ⟨hlength, hsenders⟩
  · next hnew =>
    rw [queued_iff] at hnew
    constructor
    · split <;> simp <;> omega
    · rw [List.map_append]
      refine List.nodup_append.2 ⟨?_, by simp, ?_⟩
      · split
        · rw [List.map_tail]; exact hsenders.sublist (List.tail_sublist _)
        · exact hsenders
      · intro a ha b hb
        rw [List.map_singleton, List.mem_singleton] at hb
        rintro rfl
        rw [hb] at ha
        refine hnew ?_
        split at ha
        · rw [List.map_tail] at ha; exact List.mem_of_mem_tail ha
        · exact ha

/-- After a frame has been received the queue is empty, or the table is frozen and the frame waits (R57, R60). -/
theorem State.receive_table (f : Frame) : (s.receive f).table.freeze = s.table.freeze ∧
    ((s.receive f).table.queue = [] ∨ s.table.freeze ≠ none ∧ s.receive f = s.enqueue f) := by
  unfold State.receive
  dsimp only
  split
  · next x h =>
    rw [State.enqueue_freeze] at h
    exact ⟨State.enqueue_freeze f, .inr ⟨by rw [h]; nofun, rfl⟩⟩
  · exact ⟨(State.drain_freeze _).trans (State.enqueue_freeze f), .inl (State.drain_queue _)⟩

/-- A frame received leaves the entries of the stations without a frame waiting (R57, R60). -/
theorem State.receive_at {f : Frame} (h : ∀ g ∈ s.table.queueWith f, g.sender ≠ st) :
    (s.receive f).table.at st = s.table.at st := by
  have hqueued : (s.enqueue f).table.at st = s.table.at st := by rw [Table.at, State.enqueue_entries, Table.at]
  unfold State.receive
  dsimp only
  split
  · exact hqueued
  · exact (drainList_at _ _ _ (by rw [State.enqueue_queue]; exact h)).trans hqueued

theorem Table.QueueOk.of_empty {y : Table} (h : y.queue = []) : y.QueueOk :=
  ⟨by rw [h]; exact Nat.zero_le _, by rw [h]; exact List.nodup_nil, fun _ => h⟩

theorem Table.QueueOk.of_same {y z : Table} (h : y.QueueOk) (hqueue : z.queue = y.queue)
    (hfreeze : z.freeze = none → y.freeze = none) : z.QueueOk :=
  ⟨by rw [hqueue]; exact h.length, by rw [hqueue]; exact h.senders, fun k => by rw [hqueue]; exact h.empty (hfreeze k)⟩

theorem State.receive_queueOk (h : s.table.QueueOk) (f : Frame) : (s.receive f).table.QueueOk := by
  obtain ⟨hfreeze, hempty | ⟨hfrozen, hqueued⟩⟩ := State.receive_table (s := s) f
  · exact .of_empty hempty
  · obtain ⟨hlength, hsenders⟩ := Table.queueWith_ok (f := f) h.length h.senders
    refine ⟨?_, ?_, fun k => absurd (hfreeze.symm.trans k) hfrozen⟩ <;> rw [hqueued, State.enqueue_queue]
    exacts [hlength, hsenders]

/-- Ending a freeze empties the queue, and without a freeze it changes nothing (R66). -/
theorem State.endFreeze_queueOk (h : s.table.QueueOk) : s.endFreeze.table.QueueOk := by
  unfold State.endFreeze
  split
  · exact h
  · exact .of_empty (State.drain_queue _)

theorem State.clearTable_queueOk (h : s.table.QueueOk) : s.clearTable.table.QueueOk :=
  (State.endFreeze_queueOk h).of_same rfl id

theorem State.removeRace_queueOk (h : s.table.QueueOk) : s.removeRace.table.QueueOk := by
  unfold State.removeRace
  dsimp only
  exact State.clearTable_queueOk (by simpa using h)

theorem State.leaveRace_queueOk (h : s.table.QueueOk) : s.leaveRace.table.QueueOk := by
  unfold State.leaveRace State.freeClock
  refine State.removeRace_queueOk ?_
  rw [State.setClockState_table, State.setClock_table, State.setBus_table, State.leaveSession_quiet.table]
  exact h

theorem State.windowEvaluation_queue : s.windowEvaluation.table.queue = s.table.queue ∧
    s.windowEvaluation.table.freeze = s.table.freeze := by
  rw [State.windowEvaluation_rest.2.2]
  exact ⟨State.expiryJudged_judges.queue, State.expiryJudged_judges.freeze⟩

/-! ## The queue through every command -/

/-- Every effect keeps the queue within R57 and R60. -/
theorem State.Effect.queueOk (h : s.Effect i u) (hq : s.table.QueueOk) : u.table.QueueOk := by
  have quiet : ∀ {t : State}, s.Quiet t → t.table.QueueOk := fun k => by rw [k.table]; exact hq
  cases h with
  | hold | port | clearFaults | proxOff | configure | setCourse | setPattern => exact hq
  | proxOn => unfold State.proxOn; split <;> exact hq
  | line h => rw [h.moves]; exact hq
  | received f stamp capture _ h =>
    rw [h.moves]
    exact State.receive_queueOk (s := s.countReception f.sender stamp capture) hq f
  | window =>
    obtain ⟨hqueue, hfreeze⟩ := State.windowEvaluation_queue (s := s)
    exact hq.of_same hqueue fun k => hfreeze.symm.trans k
  | payment =>
    unfold State.payMicrosecond
    rw [State.countTimers_moves, State.setClock_table]
    exact hq.of_same rfl fun k => by simpa using k
  | endFreeze => exact State.endFreeze_queueOk hq
  | endHold => exact quiet ((State.setSession_quiet _).trans State.reevaluate_quiet)
  | sweep => exact quiet State.sweep_quiet
  | start => exact quiet State.start_quiet
  | raceOver cause => exact quiet (State.raceOver_quiet cause)
  | join => unfold State.joinLobby; rw [State.reevaluate_quiet.table]; exact hq
  | leave => exact State.leaveRace_queueOk hq
  | newRace => exact State.removeRace_queueOk (quiet State.newRaceSession_quiet)
  | setOffer offer =>
    exact quiet (((State.setSession_quiet _).trans (State.setSession_quiet _)).trans State.reevaluate_quiet)
  | setReady b => exact quiet ((State.setSession_quiet _).trans State.reevaluate_quiet)
  | clearReady => exact quiet ((State.setSession_quiet _).trans (State.abort_quiet _ _))
  | freeze => exact hq.of_same rfl nofun
  | post p => exact quiet (State.takePost_quiet p)

/-! ## The own station through every command -/

theorem Prox.at_of_peers {p q : Prox} (h : p.peers = q.peers) (st : Station) : p.at st = q.at st := by
  rw [Prox.at, Prox.at, h]

/-- A move leaves the proximity entry of a station or clears it (R149). -/
theorem State.Move.prox (h : s.Move t) (st : Station) : t.prox.at st = s.prox.at st ∨ t.prox.at st = ProxEntry.clear := by
  have same : t.prox = s.prox → t.prox.at st = s.prox.at st ∨ t.prox.at st = ProxEntry.clear := fun k => .inl (by rw [k])
  cases h with
  | choices | port | link | clock | table | thaw | lobbySet | offers | ready | holdEnds | proposals | post | timers |
    starter | armed => exact same rfl
  | finish => exact .inl (Prox.at_of_peers (p := s.prox.stopped) (q := s.prox) rfl st)
  | raceOver cause => exact .inl (Prox.at_of_peers (p := (s.raceOver cause).prox) (q := s.prox) rfl st)
  | rule => rw [State.resolveRule_moves] at same ⊢; exact same rfl
  | proposing =>
    obtain ⟨q, hq⟩ := State.enterProposing_moves (s := s)
    rw [hq] at same ⊢
    exact same rfl
  | abort => exact same (by unfold State.abort; dsimp only; rw [State.resolveRule_moves]; rfl)
  | start =>
    have hprox : s.start.prox = s.prox.cleared.started s.store.sweepGap := rfl
    refine .inr ?_
    rw [hprox, Prox.at_of_peers (p := s.prox.cleared.started s.store.sweepGap) (q := s.prox.cleared) rfl, Prox.cleared_at]

theorem State.Evolves.prox (h : s.Evolves t) (hclear : s.prox.at st = ProxEntry.clear) :
    t.prox.at st = ProxEntry.clear :=
  h.keeps (P := fun u => u.prox.at st = ProxEntry.clear) (fun hs hm => (hm.prox st).elim (fun k => k.trans hs) id) hclear

/-- The own station stays quiet through a chain of moves that leaves its sender record and its entry. -/
theorem State.OwnQuiet.evolves (h : s.OwnQuiet) (hevolves : s.Evolves u) (hstraps : u.straps = s.straps)
    (hlink : u.link.at s.own = Sender.powerOn) (htable : u.table.at s.own = Entry.empty)
    (hqueue : ∀ f ∈ u.table.queue, f.sender ≠ s.own) : u.OwnQuiet := by
  have hown : u.own = s.own := congrArg Straps.station hstraps
  exact ⟨hown ▸ hlink, hown ▸ htable, hown ▸ hevolves.prox h.proximity, hown ▸ hqueue⟩

theorem State.OwnQuiet.quiet (h : s.OwnQuiet) (hevolves : s.Evolves u) (hquiet : s.Quiet u) : u.OwnQuiet :=
  h.evolves hevolves hquiet.straps (hquiet.link ▸ h.sender) (hquiet.table ▸ h.entry) (hquiet.table ▸ h.queue)

/-- A window expiry has nothing to judge at a sender at its power-on record (R27, R32). -/
theorem State.judgeSender_powerOn (h : s.link.at st = Sender.powerOn) (phase : Phase) :
    State.judgeSender phase s st = s := by
  have hpresence : s.judgePresence phase st = s := by simp [State.judgePresence, h, Sender.powerOn]
  rw [State.judgeSender, hpresence, State.judgeChatter, h]
  simp [Sender.powerOn]

/-- The judgement of one sender leaves the entry of every other. -/
theorem State.judgeSender_entry_ne {z : Station} (h : st ≠ z) (phase : Phase) :
    (State.judgeSender phase s z).table.at st = s.table.at st := by
  have htold : ∀ t : State, t.reevaluate.table = t.table := fun t => State.reevaluate_quiet.table
  have hchatter : ∀ t : State, (t.judgeChatter z).table = t.table := fun t => State.judgeChatter_alike.table
  unfold State.judgeSender State.judgePresence
  rw [hchatter]
  dsimp only
  split
  case h_1 => rfl
  case h_2 =>
    unfold State.judgeAcquiring
    repeat' split
    · rw [htold]; exact congrArg (Table.at · st) rfl
    all_goals rfl
  case h_3 => unfold State.judgePresent; split <;> rfl
  case h_4 =>
    unfold State.judgeFading
    dsimp only
    repeat' split
    case isFalse.isFalse.isTrue => rw [htold, (State.starterLost_quiet z).table]; rfl
    all_goals rfl
  case h_5 =>
    unfold State.judgeLost
    repeat' split
    · rw [htold, (State.starterBack_quiet z).table]; rfl
    · unfold State.emptyEntry; rw [htold]; exact Table.put_at_ne _ _ h
    all_goals rfl

theorem State.judgeSenders_powerOn {phase : Phase} (h : s.link.at st = Sender.powerOn) :
    (s.judgeSenders phase).link.at st = Sender.powerOn ∧ (s.judgeSenders phase).table.at st = s.table.at st := by
  refine foldl_judgeSender_induct (s := s) (P := fun _ u => u.link.at st = Sender.powerOn ∧
    u.table.at st = s.table.at st) stations stations_nodup ⟨h, rfl⟩ fun _ z u _ _ _ hu => ?_
  by_cases hz : z = st
  · rw [hz, State.judgeSender_powerOn hu.1]
    exact hu
  · rw [State.judgeSender_at_ne (Ne.symm hz), State.judgeSender_entry_ne (Ne.symm hz)]
    exact hu

/-- The own station stays quiet through a window expiry (R24). -/
theorem State.OwnQuiet.window (h : s.OwnQuiet) : s.windowEvaluation.OwnQuiet := by
  have hkeeps := State.windowEvaluation_keeps (s := s)
  have hfirst := State.dnfCheckAt_quiet (s := s.picked) (s.pick Config.dnfOrder 3) 0
  obtain ⟨hlink, -, htable⟩ := State.windowEvaluation_rest (s := s)
  obtain ⟨hsender, hentry⟩ : s.expiryJudged.link.at s.own = Sender.powerOn ∧
      s.expiryJudged.table.at s.own = s.table.at s.own := by
    have hjudged := State.judgeSenders_powerOn (phase := s.session.phase) (st := s.own)
      (s := s.picked.dnfCheckAt (s.pick Config.dnfOrder 3) 0) (by rw [hfirst.link]; exact h.sender)
    rw [hfirst.table] at hjudged
    exact hjudged
  refine h.evolves State.windowEvaluation_evolves hkeeps.straps ?_ ?_ ?_
  · rw [hlink, Link.newWindow_at, hsender]; rfl
  · rw [htable, hentry]; exact h.entry
  · rw [State.windowEvaluation_queue.1]
    exact h.queue

/-- The own station stays quiet through a reception from another, and through what it has the queue apply (R20). -/
theorem State.OwnQuiet.received (h : s.OwnQuiet) {f : Frame} (hsender : f.sender ≠ s.own) (stamp capture : Time) :
    ((s.countReception f.sender stamp capture).receive f).OwnQuiet := by
  have hcounted := State.receive_applies (s := s.countReception f.sender stamp capture) f
  have hqueued : ∀ g ∈ s.table.queueWith f, g.sender ≠ s.own := fun g hg => by
    obtain k | k := Table.mem_queueWith hg
    · rw [k]; exact hsender
    · obtain ⟨g', hg', k'⟩ := List.mem_map.1 k
      rw [← k']; exact h.queue g' hg'
  refine h.evolves (State.received_evolves f stamp capture) hcounted.straps ?_ ?_ ?_
  · rw [hcounted.link]
    exact (Link.put_at_ne _ _ hsender.symm).trans h.sender
  · exact (State.receive_at (s := s.countReception f.sender stamp capture) hqueued).trans h.entry
  · obtain ⟨-, hempty | ⟨-, hwaits⟩⟩ := State.receive_table (s := s.countReception f.sender stamp capture) f
    · rw [hempty]; nofun
    · rw [hwaits, State.enqueue_queue]; exact hqueued

/-- Ending a freeze leaves the entries of the stations without a frame waiting (R66). -/
theorem State.endFreeze_at (h : ∀ g ∈ s.table.queue, g.sender ≠ st) : s.endFreeze.table.at st = s.table.at st := by
  unfold State.endFreeze
  split
  · rfl
  · exact drainList_at _ _ _ h

theorem State.endFreeze_senders (h : ∀ g ∈ s.table.queue, g.sender ≠ st) :
    ∀ g ∈ s.endFreeze.table.queue, g.sender ≠ st := by
  unfold State.endFreeze
  split
  · exact h
  · intro g hg
    have hempty : g ∈ (s.drain _).table.queue := hg
    rw [State.drain_queue] at hempty
    cases hempty

theorem State.OwnQuiet.endFreeze (h : s.OwnQuiet) : s.endFreeze.OwnQuiet :=
  h.evolves State.endFreeze_evolves State.endFreeze_applies.straps
    (by rw [State.endFreeze_applies.link]; exact h.sender)
    ((State.endFreeze_at h.queue).trans h.entry) (State.endFreeze_senders h.queue)

theorem State.OwnQuiet.clearTable (h : s.OwnQuiet) : s.clearTable.OwnQuiet := by
  have hended := h.endFreeze
  refine ⟨hended.sender, ?_, hended.proximity, hended.queue⟩
  have hentry : s.endFreeze.dropCars.table.at s.endFreeze.own = (s.endFreeze.table.at s.endFreeze.own).withoutCar := by
    simp [State.dropCars, Table.at]
  exact hentry.trans (by rw [hended.entry]; rfl)

/-- Removing the race clears every proximity entry, and the rest of the own station stays quiet (R71, R77, R149). -/
theorem State.removeRace_ownQuiet (hsender : s.link.at s.own = Sender.powerOn) (hentry : s.table.at s.own = Entry.empty)
    (hqueue : ∀ f ∈ s.table.queue, f.sender ≠ s.own) : s.removeRace.OwnQuiet := by
  unfold State.removeRace
  exact State.OwnQuiet.clearTable ⟨hsender, hentry, Prox.cleared_at _ _, hqueue⟩

theorem State.OwnQuiet.leaveRace (h : s.OwnQuiet) : s.leaveRace.OwnQuiet := by
  have hsession := State.leaveSession_quiet (s := s)
  unfold State.leaveRace
  dsimp only
  generalize hu : (s.leaveSession.setBus _).freeClock = v
  have hkeeps : v.straps = s.straps ∧ v.link = s.link ∧ v.table = s.table := by
    rw [← hu]
    unfold State.freeClock
    rw [(State.setClockState_keeps _).straps, State.setClockState_link, State.setClockState_table]
    exact ⟨hsession.straps, hsession.link, hsession.table⟩
  obtain ⟨hstraps, hlink, htable⟩ := hkeeps
  have hown : v.own = s.own := congrArg Straps.station hstraps
  exact State.removeRace_ownQuiet (by rw [hown, hlink]; exact h.sender) (by rw [hown, htable]; exact h.entry)
    (by rw [hown, htable]; exact h.queue)

/-- Where the straps, the sender record and entry of the own station and the queue stay, and its proximity entry too. -/
theorem State.OwnQuiet.of_same (h : s.OwnQuiet) (hstraps : u.straps = s.straps)
    (hlink : u.link.at s.own = Sender.powerOn) (hentries : u.table.entries = s.table.entries)
    (hqueue : u.table.queue = s.table.queue) (hprox : u.prox.peers = s.prox.peers) : u.OwnQuiet := by
  have hown : u.own = s.own := congrArg Straps.station hstraps
  refine ⟨hown ▸ hlink, ?_, ?_, by rw [hown, hqueue]; exact h.queue⟩
  · rw [hown, Table.at, hentries]; exact h.entry
  · rw [hown, Prox.at_of_peers hprox]; exact h.proximity

theorem State.signalDraft_prox (z : Station) (a b : ProxState) : (s.signalDraft z a b).prox = s.prox := by
  unfold State.signalDraft
  split <;> rfl

theorem State.signalContact_prox (z : Station) (a b : ProxState) : (s.signalContact z a b).prox = s.prox := by
  unfold State.signalContact
  split <;> rfl

/-- The proximity entry of a peer after its evaluation (R140 to R147). -/
def State.evaluated (s : State) (z : Station) : ProxEntry :=
  let m := s.measure z
  let old := s.prox.at z
  let state := s.judgeProx m old.state
  { state := state, closing := if old.state ≠ .contact ∧ state = .contact then m.closing else old.closing }

theorem State.evaluatePeer_prox (z : Station) : (s.evaluatePeer z).prox = s.prox.put z (s.evaluated z) := by
  have hunfold : s.evaluatePeer z = ((s.setProx (s.prox.put z (s.evaluated z))).signalContact z (s.prox.at z).state
      (s.evaluated z).state).signalDraft z (s.prox.at z).state (s.evaluated z).state := rfl
  rw [hunfold, State.signalDraft_prox, State.signalContact_prox]
  rfl

theorem State.passIneligible_prox (z : Station) :
    (s.passIneligible z).prox = s.prox.put z { s.prox.at z with state := .clear } := by
  unfold State.passIneligible State.signalDraft
  dsimp only
  split <;> rfl

/-- A sweep step passes the own station as ineligible, and so keeps it CLEAR (R136, R137). -/
theorem State.search_own (n : Nat) : ∀ (z : Station) (s : State), s.prox.at s.own = ProxEntry.clear →
    (State.search n z s).prox.at s.own = ProxEntry.clear := by
  induction n with
  | zero => exact fun _ _ h => h
  | succ n ih =>
    intro z s h
    unfold State.search
    split
    · next heligible =>
      have hne : s.own ≠ z := by
        simp only [State.eligible, Bool.and_eq_true, bne_iff_ne] at heligible
        exact Ne.symm heligible.1.1
      show ((s.evaluatePeer z).prox.at s.own) = _
      rw [State.evaluatePeer_prox, Prox.put_at_ne _ _ hne]
      exact h
    · have hown : (s.passIneligible z).own = s.own := congrArg Straps.station (State.passIneligible_quiet z).straps
      rw [← hown]
      refine ih _ _ ?_
      rw [hown, State.passIneligible_prox]
      by_cases hz : s.own = z
      · rw [← hz, Prox.put_at_self, h]; rfl
      · rw [Prox.put_at_ne _ _ hz]; exact h

/-- A sweep step leaves the enable flag and the sweep timer, which has started its next gap (R135). -/
theorem State.search_timer (n : Nat) : ∀ (z : Station) (s : State),
    (State.search n z s).prox.timer = s.prox.timer ∧ (State.search n z s).prox.enabled = s.prox.enabled := by
  induction n with
  | zero => exact fun _ _ => ⟨rfl, rfl⟩
  | succ n ih =>
    intro z s
    unfold State.search
    split
    · dsimp only
      rw [State.setProx_prox, State.evaluatePeer_prox]
      exact ⟨rfl, rfl⟩
    · obtain ⟨htimer, henabled⟩ := ih (nextStation z) (s.passIneligible z)
      rw [htimer, henabled, State.passIneligible_prox]
      exact ⟨rfl, rfl⟩

theorem State.clearFaults_at (st : Station) :
    s.clearFaults.state.link.at st = { s.link.at st with chatter := false } := by
  simp [State.clearFaults, State.done, Link.at]

/-- CONFIGURE ends the window and holds each fade count to the new dropout (R35). -/
theorem Link.configured_at (l : Link) (c : Store) (st : Station) :
    (l.configured c).at st = { l.at st with count := 0, sample := none, fade := min (l.at st).fade c.dropout } := by
  unfold Link.configured
  simp [Link.at, Link.newWindow, Sender.limitFade]

/-- Every effect keeps the own station quiet. -/
theorem State.Effect.ownQuiet (h : s.Effect i u) (hq : s.OwnQuiet) : u.OwnQuiet := by
  have hsame : ∀ {t : State}, t.straps = s.straps → t.link = s.link → t.table.entries = s.table.entries →
      t.table.queue = s.table.queue → t.prox.peers = s.prox.peers → t.OwnQuiet :=
    fun h1 h2 h3 h4 h5 => hq.of_same h1 (h2 ▸ hq.sender) h3 h4 h5
  cases h with
  | hold | port | freeze | proxOff | setPattern | setCourse => exact hsame rfl rfl rfl rfl rfl
  | proxOn =>
    refine hsame ?_ ?_ ?_ ?_ ?_ <;> unfold State.proxOn <;> repeat' split
    all_goals rfl
  | clearFaults => exact hq.of_same rfl (by rw [State.clearFaults_at, hq.sender]; rfl) rfl rfl rfl
  | configure p => exact hq.of_same rfl ((Link.configured_at _ _ _).trans (by rw [hq.sender]; rfl)) rfl rfl rfl
  | payment =>
    unfold State.payMicrosecond
    rw [State.countTimers_moves]
    exact hq.of_same rfl hq.sender rfl rfl rfl
  | line h => rw [h.moves]; exact hsame rfl rfl rfl rfl rfl
  | received f stamp capture hsender h =>
    rw [h.moves]
    have hr := hq.received hsender stamp capture
    exact ⟨hr.sender, hr.entry, hr.proximity, hr.queue⟩
  | window => exact hq.window
  | endFreeze => exact hq.endFreeze
  | endHold => exact hq.quiet State.endHold_evolves ((State.setSession_quiet _).trans State.reevaluate_quiet)
  | sweep =>
    have hsweep := State.sweep_quiet (s := s)
    have hown : s.sweep.own = s.own := congrArg Straps.station hsweep.straps
    exact ⟨by rw [hown, hsweep.link]; exact hq.sender, by rw [hown, hsweep.table]; exact hq.entry,
      hown ▸ State.search_own 16 s.prox.position (s.setProx { s.prox with timer := some s.store.sweepGap }) hq.proximity,
      by rw [hown, hsweep.table]; exact hq.queue⟩
  | start h => exact hq.quiet (State.Move.start (State.armed_of_startReached h)).evolves State.start_quiet
  | raceOver cause h => exact hq.quiet (State.Move.raceOver cause h).evolves (State.raceOver_quiet cause)
  | join =>
    have hentered : ∀ x y, ((s.setSession x).setBus y).OwnQuiet := fun _ _ => hsame rfl rfl rfl rfl rfl
    unfold State.joinLobby
    exact (hentered _ _).quiet State.reevaluate_evolves State.reevaluate_quiet
  | leave => exact hq.leaveRace
  | newRace =>
    have hsession := State.newRaceSession_quiet (s := s)
    have hown : s.newRaceSession.own = s.own := congrArg Straps.station hsession.straps
    exact State.removeRace_ownQuiet (by rw [hown, hsession.link]; exact hq.sender)
      (by rw [hown, hsession.table]; exact hq.entry) (by rw [hown, hsession.table]; exact hq.queue)
  | setOffer offer =>
    exact hq.quiet (State.setOffer_evolves offer)
      (((State.setSession_quiet _).trans (State.setSession_quiet _)).trans State.reevaluate_quiet)
  | setReady b h =>
    exact hq.quiet (State.setReadyFlag_evolves b h) ((State.setSession_quiet _).trans State.reevaluate_quiet)
  | clearReady h => exact hq.quiet (State.clearReady_evolves h) ((State.setSession_quiet _).trans (State.abort_quiet _ _))
  | post p h => exact hq.quiet (State.takePost_evolves p h) (State.takePost_quiet p)

theorem Table.powerOn_queueOk : Table.powerOn.QueueOk := .of_empty rfl

theorem State.powerOn_ownQuiet (straps : Straps) (q : List Instr) (n : Nat) : (State.powerOn straps q n).OwnQuiet := by
  refine ⟨?_, ?_, ?_, nofun⟩ <;>
    simp [State.powerOn, Link.powerOn, Link.at, Table.powerOn, Table.at, Prox.powerOn, Prox.at]

theorem State.ResetTo.queue_own (h : s.ResetTo t i) : t.table.QueueOk ∧ t.OwnQuiet := by
  have hjoin : ∀ v : State, v.table.QueueOk ∧ v.OwnQuiet → v.session.phase = .offline →
      v.joinLobby.table.QueueOk ∧ v.joinLobby.OwnQuiet := fun v hv hp =>
    ⟨(State.Effect.join (i := i) hp).queueOk hv.1, (State.Effect.join (i := i) hp).ownQuiet hv.2⟩
  have hon : ∀ straps, (State.powerOn straps s.pending s.choices).table.QueueOk ∧
      (State.powerOn straps s.pending s.choices).OwnQuiet :=
    fun straps => ⟨Table.powerOn_queueOk, State.powerOn_ownQuiet _ _ _⟩
  obtain ⟨station, rate, auto, -, rfl⟩ | rfl := h
  · unfold State.release
    dsimp only
    split
    · exact hjoin _ (hon _) rfl
    · exact hon _
  · exact hon _

/-- Settles O57: the effects that queue, apply, judge or sweep are those of the lemmas above, and a microsecond counts the
freeze timer alone. -/
theorem stepsKeepTheQueueAndTheOwnStation : Obligations.StepsKeepTheQueueAndTheOwnStation := by
  have htimers : ∀ s : State, s.microsecond = s.countTimers.setClock s.clock.advance := fun _ => rfl
  refine ⟨fun s t h hstep => ?_, fun s t h hstep => ?_⟩
  · refine step_preserves (P := fun s => s.table.QueueOk) (fun hsame h => ?_) (fun _ hto => hto.queue_own.1)
      (fun h heffect => heffect.queueOk h) (fun h _ => ?_) h hstep
    · rw [hsame.moves]; exact h
    · rw [htimers, State.countTimers_moves, State.setClock_table]
      exact h.of_same rfl fun k => by simpa using k
  · refine step_preserves (P := State.OwnQuiet) (fun hsame h => ?_) (fun _ hto => hto.queue_own.2)
      (fun h heffect => heffect.ownQuiet h) (fun h _ => ?_) h hstep
    · rw [hsame.moves]
      exact ⟨h.sender, h.entry, h.proximity, h.queue⟩
    · rw [htimers, State.countTimers_moves]
      exact h.of_same rfl h.sender rfl rfl rfl

end Sys2Proof.Machine
end

section

/-! What stands in each phase of a session: every move of the session's work keeps it, and so every step does (R8, R72, R84,
R88, R99, R107 to R109, R135, R152). -/

namespace Sys2Proof.Machine

variable {s t u : State} {i : Instr} {st : Station}

/-! ## Outside a race -/

/-- No agreement stands, and nothing of a race: what OFFLINE and LOBBY share (R99, R106, R152). -/
structure State.NoRace (s : State) : Prop where
  roster : s.session.roster = none
  held : s.session.held = false
  agreed : s.session.agreed = none
  tag : s.session.tag = 0
  limit : s.session.limit = none
  deadline : s.session.deadline = none
  live : s.motion.live = none
  frozen : s.motion.frozen.isSome = true → s.table.freeze.isSome = true
  starters : ∀ st, s.standings.at st = none
  final : s.standings.final = none
  overAt : s.standings.overAt = none
  cause : s.standings.cause = none
  timer : s.prox.timer = none

/-- What stands in OFFLINE, but for the freeze, which LEAVE ends last (R72, R74). -/
structure State.Offline (s : State) : Prop extends State.NoRace s where
  phase : s.session.phase = .offline
  rule : s.session.rule = none
  ready : s.session.ready = false
  hold : s.session.abortHold = none
  period : s.bus.period = none

theorem State.SessionOk.noRace (h : s.SessionOk) (hphase : s.session.phase = .offline ∨ s.session.phase = .lobby) :
    s.NoRace := by
  obtain ⟨roster, held, rule, offlineRule, ready, offlineReady, agreed, tag, record, hold, period, starters, final, overAt,
    cause, limit, deadline, sweep, freeze, frozen⟩ := h
  rcases hphase with k | k <;>
    simp [k, Phase.rostered, Phase.agreed, Phase.hasStandings, Phase.inRace, bne, beq_eq_decide] at * <;>
    exact ⟨roster, held, agreed, tag, limit, deadline, record, frozen, starters, final, overAt, cause, sweep⟩

theorem State.SessionOk.offline_iff (hphase : s.session.phase = .offline) :
    s.SessionOk ↔ s.Offline ∧ s.table.freeze = none := by
  constructor
  · intro h
    refine ⟨⟨h.noRace (.inl hphase), hphase, h.offlineRule hphase, h.offlineReady hphase, ?_, ?_⟩, ?_⟩
    · have hhold := h.hold
      simpa [hphase] using hhold
    · have hperiod := h.period
      simpa [hphase] using hperiod
    · have hfreeze := h.freeze
      simpa [hphase] using hfreeze
  · rintro ⟨⟨⟨roster, held, agreed, tag, limit, deadline, live, frozen, starters, final, overAt, cause, timer⟩, phase, rule,
      ready, hold, period⟩, freeze⟩
    constructor <;> simp [*, Phase.rostered, Phase.agreed, Phase.hasStandings, Phase.inRace] at *; exact frozen

theorem State.SessionOk.of_lobby (hphase : s.session.phase = .lobby) (h : s.NoRace)
    (hperiod : s.bus.period.isSome = true) : s.SessionOk := by
  obtain ⟨roster, held, agreed, tag, limit, deadline, live, frozen, starters, final, overAt, cause, timer⟩ := h
  constructor <;> simp [*, Phase.rostered, Phase.agreed, Phase.hasStandings, Phase.inRace] at *; exact frozen

/-! ## Moves that leave all of it -/

/-- All that the rules of each phase speak of. -/
structure Shape where
  phase : Phase
  roster : Option StationSet
  held : Bool
  rule : Bool
  ready : Bool
  agreed : Bool
  tag : Byte
  record : Bool
  hold : Bool
  period : Bool
  starters : Station → Bool
  ending : Bool × Bool × Bool
  timers : Bool × Bool × Bool
  enabled : Bool
  freeze : Bool × Bool

def State.shape (s : State) : Shape :=
  { phase := s.session.phase, roster := s.session.roster, held := s.session.held, rule := s.session.rule.isSome
    ready := s.session.ready, agreed := s.session.agreed.isSome, tag := s.session.tag, record := s.motion.live.isSome
    hold := s.session.abortHold.isSome, period := s.bus.period.isSome, starters := fun st => (s.standings.at st).isSome
    ending := (s.standings.final.isSome, s.standings.overAt.isSome, s.standings.cause.isSome)
    timers := (s.session.limit.isSome, s.session.deadline.isSome, s.prox.timer.isSome)
    enabled := s.prox.enabled, freeze := (s.table.freeze.isSome, s.motion.frozen.isSome) }

theorem State.SessionOk.of_shape (h : s.SessionOk) (hshape : t.shape = s.shape) : t.SessionOk := by
  simp only [State.shape, Shape.mk.injEq, Prod.mk.injEq, funext_iff] at hshape
  obtain ⟨phase, roster, held, rule, ready, agreed, tag, record, hold, period, starters, ⟨final, overAt, cause⟩,
    ⟨limit, deadline, timer⟩, enabled, freeze, frozen⟩ := hshape
  refine ⟨?_, ?_, ?_, ?_, ?_, ?_, ?_, ?_, ?_, ?_, ?_, fun st => ?_, ?_, ?_, ?_, ?_, ?_, ?_, ?_, ?_⟩
  · rw [roster, phase]; exact h.roster
  · rw [held, phase]; exact h.held
  · rw [rule, phase]; exact h.rule
  · rw [phase, ← Option.isNone_iff_eq_none, ← Option.not_isSome, rule, Option.not_isSome, Option.isNone_iff_eq_none]
    exact h.offlineRule
  · rw [ready, phase]; exact h.ready
  · rw [ready, phase]; exact h.offlineReady
  · rw [agreed, phase]; exact h.agreed
  · rw [tag, phase]; exact h.tag
  · rw [record, phase]; exact h.record
  · rw [hold, phase]; exact h.hold
  · rw [period, phase]; exact h.period
  · rw [starters, phase, roster]; exact h.starters st
  · rw [final, phase]; exact h.final
  · rw [overAt, phase]; exact h.overAt
  · rw [cause, phase]; exact h.cause
  · rw [limit, phase]; exact h.limit
  · rw [deadline, phase]; exact h.deadline
  · rw [timer, phase, enabled]; exact h.sweep
  · rw [freeze, phase]; exact h.freeze
  · rw [frozen, freeze]; exact h.frozen

/-! ## Moves that change the phase -/

/-- A session tag is never 0 (R97). -/
theorem sessionTag_ne_zero (start : Time) : sessionTag start ≠ 0 := by
  unfold sessionTag
  dsimp only
  split <;> simp_all

/-- Entry to PROPOSING, with the player ready, no abort held and a rule resolved (R91, R92). -/
theorem State.SessionOk.proposing (h : s.SessionOk) (hphase : s.session.phase = .lobby) (hcond : s.conditionA = true) :
    s.enterProposing.SessionOk := by
  obtain ⟨q, hq⟩ := State.enterProposing_moves (s := s)
  have hperiod := h.period
  obtain ⟨roster, held, agreed, tag, limit, deadline, live, frozen, starters, final, overAt, cause, timer⟩ :=
    h.noRace (.inr hphase)
  obtain ⟨hready, hhold, hrule⟩ : s.session.ready = true ∧ s.session.abortHold = none ∧ s.session.rule.isSome = true := by
    unfold State.conditionA at hcond
    simp only [Bool.and_eq_true, Option.isNone_iff_eq_none] at hcond
    obtain ⟨⟨⟨⟨hready, hhold⟩, -⟩, -⟩, hrule⟩ := hcond
    refine ⟨hready, hhold, ?_⟩
    split at hrule
    · cases hrule
    · next k => rw [k]; rfl
  rw [hq]
  constructor <;> simp [*, Phase.rostered, Phase.agreed, Phase.hasStandings, Phase.inRace, bne, beq_eq_decide] at *; exact frozen

theorem Standings.at_buildAll (x : Standings) (f : Station → Option Starter) (st : Station) :
    Standings.at { x with starters := buildAll f } st = f st := by
  simp [Standings.at]

/-- Entry to ARMED (R97, R109). -/
theorem State.SessionOk.armed (h : s.SessionOk) (hphase : s.session.phase = .proposing) : s.enterArmed.SessionOk := by
  obtain ⟨roster, held, rule, offlineRule, ready, offlineReady, agreed, tag, record, hold, period, starters, final, overAt,
    cause, limit, deadline, sweep, freeze, frozen⟩ := h
  simp [hphase, Phase.rostered, Phase.agreed, Phase.hasStandings, Phase.inRace, bne, beq_eq_decide] at *
  have htag : ¬ sessionTag (s.latestProposal.getD 0#32) = 0#8 := sessionTag_ne_zero _
  unfold State.enterArmed State.signal
  constructor <;> simp [*, Phase.rostered, Phase.agreed, Phase.hasStandings, Phase.inRace, bne, beq_eq_decide]
  split
  · next hfrozen => exact fun _ => hfrozen
  · exact frozen

/-- The start instant (R102, R153). -/
theorem State.SessionOk.start (h : s.SessionOk) (hphase : s.session.phase = .armed) : s.start.SessionOk := by
  obtain ⟨roster, held, rule, offlineRule, ready, offlineReady, agreed, tag, record, hold, period, starters, final, overAt,
    cause, limit, deadline, sweep, freeze, frozen⟩ := h
  simp [hphase, Phase.rostered, Phase.agreed, Phase.hasStandings, Phase.inRace, bne, beq_eq_decide] at *
  have hstarters : ∀ st, (s.start.standings.at st).isSome = member (s.session.roster.getD 0) st := fun st => by
    refine (congrArg Option.isSome (Standings.at_buildAll _ _ st)).trans ?_
    split
    · next k => exact k.symm
    · next k => exact (Bool.eq_false_iff.2 k).symm
  constructor
  case starters => exact hstarters
  all_goals unfold State.start State.signal State.recomputeLobby
  all_goals simp [*, Standings.empty, Prox.cleared, Prox.started, Phase.rostered, Phase.agreed, Phase.inRace, bne, beq_eq_decide]
  · split <;> simp [*]
  · exact frozen

/-- The own finish (R113, R135). -/
theorem State.SessionOk.finish (h : s.SessionOk) (hphase : s.session.phase = .racing) :
    ((s.setSession { s.session with phase := .finished }).setProx s.prox.stopped).SessionOk := by
  obtain ⟨roster, held, rule, offlineRule, ready, offlineReady, agreed, tag, record, hold, period, starters, final, overAt,
    cause, limit, deadline, sweep, freeze, frozen⟩ := h
  simp [hphase, Phase.rostered, Phase.agreed, Phase.hasStandings, Phase.inRace, bne, beq_eq_decide] at *
  constructor <;> simp [*, Prox.stopped, Phase.rostered, Phase.agreed, Phase.hasStandings, Phase.inRace, bne, beq_eq_decide]
  exact frozen

/-- Race over (R165). -/
theorem State.SessionOk.raceOver (h : s.SessionOk) (hrace : s.session.phase.inRace = true) (c : EndCause) :
    (s.raceOver c).SessionOk := by
  obtain ⟨roster, held, rule, offlineRule, ready, offlineReady, agreed, tag, record, hold, period, starters, final, overAt,
    cause, limit, deadline, sweep, freeze, frozen⟩ := h
  have hstarters : ∀ st, ((s.raceOver c).standings.at st).isSome = (s.standings.at st).isSome := fun st => by
    rw [State.raceOver_at, Option.isSome_map]
  obtain ⟨hrostered, hagreed, hstandings, hrunning⟩ : s.session.phase.rostered = true ∧ s.session.phase.agreed = true ∧
      s.session.phase.hasStandings = true ∧ s.bus.period.isSome = true := by
    rw [period]
    cases hphase : s.session.phase <;> simp [hphase, Phase.inRace] at hrace <;> simp [Phase.rostered, Phase.agreed, Phase.hasStandings]
  have hlobby : s.session.phase ≠ .lobby := fun k => by rw [k] at hrace; cases hrace
  simp [hrostered, hagreed, hstandings, hlobby] at roster held rule ready agreed tag record starters hold
  clear period
  constructor
  case starters =>
    intro st
    rw [hstarters, starters]
    rfl
  all_goals
    unfold State.raceOver State.signal State.recomputeLobby
    simp [*, Prox.stopped, Phase.rostered, Phase.agreed, Phase.inRace, bne, beq_eq_decide]
  exact frozen

/-- An abort (R99). -/
theorem State.SessionOk.abort (h : s.SessionOk) (hphase : s.session.phase = .proposing ∨ s.session.phase = .armed)
    (c : AbortCause) (who : Option Station) : (s.abort c who).SessionOk := by
  refine .of_lobby (State.abort_phase c who) ?_ ?_
  · obtain ⟨roster, held, rule, offlineRule, ready, offlineReady, agreed, tag, record, hold, period, starters, final, overAt,
      cause, limit, deadline, sweep, freeze, frozen⟩ := h
    unfold State.abort
    dsimp only
    rw [State.resolveRule_moves]
    rcases hphase with k | k <;> simp [k, Phase.rostered, Phase.agreed, Phase.hasStandings, Phase.inRace, bne, beq_eq_decide] at * <;>
      constructor <;> simp [*, Session.dissolve, State.signal, State.recomputeLobby]
  · rw [(State.abort_quiet c who).bus, h.period]
    rcases hphase with k | k <;> rw [k] <;> rfl

/-! ## Every move -/

theorem State.putStarter_isSome {r r' : Starter} (h : s.standings.at st = some r) (z : Station) :
    ((s.putStarter st r').standings.at z).isSome = (s.standings.at z).isSome := by
  by_cases hz : z = st
  · rw [hz, h]
    exact (congrArg Option.isSome (Standings.put_at_self s.standings st r')).trans rfl
  · exact congrArg Option.isSome (Standings.put_at_ne _ _ hz)

/-- Every move keeps what stands in each phase. -/
theorem State.Move.sessionOk (h : s.Move t) (hok : s.SessionOk) : t.SessionOk := by
  cases h with
  | choices | port | link | clock | lobbySet | offers | proposals => exact hok.of_shape rfl
  | table y hfreeze =>
    refine hok.of_shape ?_
    simp [State.shape, hfreeze]
  | thaw =>
    exact ⟨hok.roster, hok.held, hok.rule, hok.offlineRule, hok.ready, hok.offlineReady, hok.agreed, hok.tag, hok.record,
      hok.hold, hok.period, hok.starters, hok.final, hok.overAt, hok.cause, hok.limit, hok.deadline, hok.sweep, nofun, nofun⟩
  | rule hphase =>
    rw [State.resolveRule_moves]
    obtain ⟨roster, held, agreed, tag, limit, deadline, live, frozen, starters, final, overAt, cause, timer⟩ :=
      hok.noRace (.inr hphase)
    refine .of_lobby hphase ⟨roster, held, agreed, tag, limit, deadline, live, frozen, starters, final, overAt, cause,
      timer⟩ ?_
    rw [State.setPort_bus, State.setSession_bus, hok.period, hphase]
    rfl
  | ready b hphase =>
    obtain ⟨roster, held, agreed, tag, limit, deadline, live, frozen, starters, final, overAt, cause, timer⟩ :=
      hok.noRace (.inr hphase)
    refine .of_lobby hphase ⟨roster, held, agreed, tag, limit, deadline, live, frozen, starters, final, overAt, cause,
      timer⟩ ?_
    exact hok.period.trans (by rw [hphase]; rfl)
  | holdEnds =>
    exact ⟨hok.roster, hok.held, hok.rule, hok.offlineRule, hok.ready, hok.offlineReady, hok.agreed, hok.tag, hok.record,
      nofun, hok.period, hok.starters, hok.final, hok.overAt, hok.cause, hok.limit, hok.deadline, hok.sweep, hok.freeze,
      hok.frozen⟩
  | proposing hphase hcond => exact hok.proposing hphase hcond
  | armed hphase => exact hok.armed hphase
  | abort cause who hphase => exact hok.abort hphase cause who
  | start hphase => exact hok.start hphase
  | post c hphase =>
    refine hok.of_shape ?_
    have hagreed : s.session.phase.agreed = true := by
      cases k : s.session.phase <;> simp [k, Phase.inRace] at hphase <;> rfl
    simp [State.shape, State.setLive, hok.record, hagreed]
  | finish hphase => exact hok.finish hphase
  | starter st r r' hr =>
    refine hok.of_shape ?_
    have hstarters : (fun z => ((s.putStarter st r').standings.at z).isSome) = fun z => (s.standings.at z).isSome :=
      funext (State.putStarter_isSome hr)
    unfold State.shape
    rw [hstarters]
    rfl
  | timers earliest deadline hrace =>
    exact ⟨hok.roster, hok.held, hok.rule, hok.offlineRule, hok.ready, hok.offlineReady, hok.agreed, hok.tag, hok.record,
      hok.hold, hok.period, hok.starters, hok.final, hok.overAt, hok.cause, hok.limit, fun _ => hrace, hok.sweep, hok.freeze,
      hok.frozen⟩
  | raceOver cause hrace => exact hok.raceOver hrace cause

theorem State.SessionOk.evolves (h : s.SessionOk) (hevolves : s.Evolves t) : t.SessionOk :=
  hevolves.keeps (fun hs hm => hm.sessionOk hs) h

/-- In OFFLINE no move can be taken that would leave it (R72). -/
theorem State.Move.offline (h : s.Move t) (hoff : s.Offline) : t.Offline := by
  have hphase := hoff.phase
  have early : ∀ {p : Phase}, s.session.phase = p → p ≠ .offline → t.Offline := fun k n =>
    absurd (k.symm.trans hphase) n
  obtain ⟨⟨roster, held, agreed, tag, limit, deadline, live, frozen, starters, final, overAt, cause, timer⟩, phase, rule,
      ready, hold, period⟩ := hoff
  cases h with
  | choices | port | link | clock | lobbySet | offers | proposals =>
    exact ⟨⟨roster, held, agreed, tag, limit, deadline, live, frozen, starters, final, overAt, cause, timer⟩, phase, rule,
      ready, hold, period⟩
  | table y hfreeze =>
    exact ⟨⟨roster, held, agreed, tag, limit, deadline, live, fun k => hfreeze ▸ frozen k, starters, final, overAt, cause,
      timer⟩, phase, rule, ready, hold, period⟩
  | thaw =>
    exact ⟨⟨roster, held, agreed, tag, limit, deadline, live, nofun, starters, final, overAt, cause, timer⟩, phase, rule,
      ready, hold, period⟩
  | holdEnds =>
    exact ⟨⟨roster, held, agreed, tag, limit, deadline, live, frozen, starters, final, overAt, cause, timer⟩, phase, rule,
      ready, rfl, period⟩
  | rule k | ready b k | proposing k | armed k | start k | finish k => exact early k nofun
  | abort _ _ k => exact k.elim (fun k => early k nofun) fun k => early k nofun
  | post c k => exact k.elim (fun k => early k nofun) fun k => by rw [hphase] at k; cases k
  | starter _ _ _ _ _ k | timers _ _ k | raceOver _ k => rw [hphase] at k; cases k

theorem State.Offline.evolves (h : s.Offline) (hevolves : s.Evolves t) : t.Offline :=
  hevolves.keeps (fun hs hm => hm.offline hs) h

theorem State.endFreeze_freeze : s.endFreeze.table.freeze = none := by
  unfold State.endFreeze
  split
  · next h => exact h
  · rfl

/-! ## Every step -/

/-- Removing the race from a session without an agreement leaves nothing of it (R71, R77, R149, R152). -/
theorem State.removeRace_noRace (hroster : s.session.roster = none) (hheld : s.session.held = false)
    (hagreed : s.session.agreed = none) (htag : s.session.tag = 0) (hlimit : s.session.limit = none)
    (hdeadline : s.session.deadline = none) :
    ((s.setStandings Standings.empty).setProx s.prox.cleared |>.setMotion { live := none, frozen := none }).NoRace :=
  ⟨hroster, hheld, hagreed, htag, hlimit, hdeadline, rfl, nofun, Standings.empty_at, rfl, rfl, rfl, rfl⟩

/-- A re-evaluation in OFFLINE recomputes the lobby set alone (R82). -/
theorem State.reevaluate_offline (h : s.session.phase = .offline) : s.reevaluate = s.recomputeLobby := by
  simp [State.reevaluate, h]

/-- The session as LEAVE leaves it, but for the lobby set (R74, R106). -/
def Session.left (x : Session) : Session :=
  { x.dissolve.stopTimers with
    phase := .offline, ready := false, abortHold := none, rule := none,
    lastAbort := if x.phase.countdown then some (.leave, none) else x.lastAbort }

/-- The session as LEAVE leaves it with ABORTED latched where a countdown ends by it (R106). -/
def State.leaveTold (s : State) : State :=
  if s.session.phase.countdown then (s.setSession s.session.left).signal .aborted else s.setSession s.session.left

theorem State.leaveTold_moves : s.leaveTold = (s.setSession s.session.left).setPort s.leaveTold.port := by
  unfold State.leaveTold
  split <;> rfl

/-- The Session Controller's part of LEAVE: RULE_CHANGE latches where a rule was resolved, and the lobby set is recomputed
(R74, R85). -/
theorem State.leaveSession_eq : s.leaveSession =
    (if s.session.rule = none then s.leaveTold else s.leaveTold.signal .ruleChange).recomputeLobby := by
  have hunfold : s.leaveSession =
    (if s.session.rule = none then s.leaveTold else s.leaveTold.signal .ruleChange).reevaluate := rfl
  rw [hunfold]
  refine State.reevaluate_offline ?_
  split <;> rw [State.leaveTold_moves] <;> rfl

/-- It moves the session and the latch alone. -/
theorem State.leaveSession_moves : s.leaveSession =
    (s.setSession { s.session.left with lobbySet := setOf s.gathers }).setPort s.leaveSession.port := by
  rw [State.leaveSession_eq]
  split <;> rw [State.leaveTold_moves] <;> rfl

/-- The clock as LEAVE frees it (R53). -/
def Clock.freed (c : Clock) : Clock := { c with k := 0, debt := 0, payment := 0, state := .free }

/-- Freeing the clock in OFFLINE: CLOCK_STATE latches and the lobby set is recomputed where it was not FREE (R42, R53). -/
theorem State.freeClock_eq (h : s.session.phase = .offline) : s.freeClock =
    if s.clock.state = .free then s.setClock s.clock.freed
    else ((s.setClock s.clock.freed).signal .clockState).recomputeLobby := by
  have hunfold : s.freeClock = if s.clock.state = .free then s.setClock { s.clock with k := 0, debt := 0, payment := 0 }
      else ((s.setClock s.clock.freed).signal .clockState).reevaluate := rfl
  rw [hunfold, State.reevaluate_offline (s := (s.setClock s.clock.freed).signal .clockState) h]
  split
  · next hfree =>
    rw [Clock.freed, ← hfree]
  · rfl

/-- It moves the clock, the lobby set and the latch alone. -/
theorem State.freeClock_moves (h : s.session.phase = .offline) : s.freeClock =
    ((s.setClock s.clock.freed).setSession { s.session with lobbySet := s.freeClock.session.lobbySet }).setPort
      s.freeClock.port := by
  rw [State.freeClock_eq h]
  split <;> rfl

/-- Removing the race in OFFLINE ends a freeze, and leaves what stands in OFFLINE (R71, R72, R74). -/
theorem State.removeRace_left (x : Session) (m : StationSet) (hsession : s.session = { x.left with lobbySet := m })
    (hperiod : s.bus.period = none) : s.removeRace.SessionOk := by
  have hoffline : s.removeRace.Offline := by
    unfold State.removeRace
    refine State.Offline.evolves ?_ State.clearTable_evolves
    refine ⟨State.removeRace_noRace ?_ ?_ ?_ ?_ ?_ ?_, ?_, ?_, ?_, ?_, hperiod⟩
    all_goals exact (congrArg _ hsession).trans rfl
  exact (State.SessionOk.offline_iff hoffline.phase).2 ⟨hoffline, State.endFreeze_freeze⟩

theorem State.leaveRace_sessionOk : s.leaveRace.SessionOk := by
  unfold State.leaveRace
  rw [State.leaveSession_moves]
  dsimp only
  rw [State.freeClock_moves rfl]
  exact State.removeRace_left s.session _ rfl rfl

theorem State.newRace_sessionOk (hperiod : s.bus.period.isSome = true) :
    s.newRaceSession.removeRace.SessionOk := by
  unfold State.removeRace
  refine State.SessionOk.evolves ?_ State.clearTable_evolves
  rw [State.newRaceSession_eq, State.resolveRule_moves]
  exact .of_lobby rfl (State.removeRace_noRace rfl rfl rfl rfl rfl rfl) hperiod

theorem State.Contends.shape (h : s.Contends t) : t.shape = s.shape := by
  have hperiod := h.period
  unfold State.shape
  rw [hperiod, h.moves]
  rfl

theorem State.countTimers_shape (c : Clock) : (s.countTimers.setClock c).shape = s.shape := by
  rw [State.countTimers_moves]
  simp [State.shape, countDown]

/-- Every effect keeps what stands in each phase. -/
theorem State.Effect.sessionOk (h : s.Effect i u) (hok : s.SessionOk) : u.SessionOk := by
  cases h with
  | hold | port | clearFaults | configure | setCourse | setPattern => exact hok.of_shape rfl
  | line h => exact hok.of_shape h.shape
  | received f stamp capture _ h => exact (hok.evolves (State.received_evolves f stamp capture)).of_shape h.shape
  | window => exact hok.evolves State.windowEvaluation_evolves
  | payment => exact hok.of_shape (State.countTimers_shape (c := s.clock.pay))
  | endFreeze => exact hok.evolves State.endFreeze_evolves
  | endHold => exact hok.evolves State.endHold_evolves
  | sweep h =>
    obtain ⟨htimer, henabled⟩ := State.search_timer 16 s.prox.position (s.setProx { s.prox with timer := some s.store.sweepGap })
    have hruns : (s.session.phase == .racing && s.prox.enabled) = true := by
      simp only [State.sweepDue, State.sweepRuns, Bool.and_eq_true] at h
      simpa using h.1
    rw [State.sweep_moves]
    exact ⟨hok.roster, hok.held, hok.rule, hok.offlineRule, hok.ready, hok.offlineReady, hok.agreed, hok.tag, hok.record,
      hok.hold, hok.period, hok.starters, hok.final, hok.overAt, hok.cause, hok.limit, hok.deadline,
      (congrArg Option.isSome htimer).trans (hruns.symm.trans (congrArg _ henabled.symm)), hok.freeze, hok.frozen⟩
  | start h => exact hok.start (State.armed_of_startReached h)
  | raceOver cause h => exact hok.raceOver h cause
  | join h =>
    unfold State.joinLobby
    refine State.SessionOk.evolves ?_ State.reevaluate_evolves
    obtain ⟨roster, held, agreed, tag, limit, deadline, live, frozen, starters, final, overAt, cause, timer⟩ :=
      hok.noRace (.inl h)
    exact .of_lobby rfl ⟨roster, held, agreed, tag, limit, deadline, live, frozen, starters, final, overAt, cause, timer⟩ rfl
  | leave => exact State.leaveRace_sessionOk
  | newRace h => exact State.newRace_sessionOk (hok.period.trans (by rw [h]; rfl))
  | setOffer offer => exact hok.evolves (State.setOffer_evolves offer)
  | setReady b h => exact hok.evolves (State.setReadyFlag_evolves b h)
  | clearReady h => exact hok.evolves (State.clearReady_evolves h)
  | freeze h =>
    exact ⟨hok.roster, hok.held, hok.rule, hok.offlineRule, hok.ready, hok.offlineReady, hok.agreed, hok.tag, hok.record,
      hok.hold, hok.period, hok.starters, hok.final, hok.overAt, hok.cause, hok.limit, hok.deadline, hok.sweep,
      fun _ => h, fun _ => rfl⟩
  | post p h => exact hok.evolves (State.takePost_evolves p h)
  | proxOn =>
    have hsweep := hok.sweep
    unfold State.proxOn
    split
    · exact hok
    · next hdisabled =>
      refine ⟨hok.roster, hok.held, hok.rule, hok.offlineRule, hok.ready, hok.offlineReady, hok.agreed, hok.tag, hok.record,
        hok.hold, hok.period, hok.starters, hok.final, hok.overAt, hok.cause, hok.limit, hok.deadline, ?_, hok.freeze,
        hok.frozen⟩
      simp only [Bool.not_eq_true] at hdisabled
      simp only [hdisabled, Bool.and_false] at hsweep
      by_cases hracing : s.session.phase = .racing <;> simp [State.done, Prox.started, hracing, hsweep]
  | proxOff =>
    exact ⟨hok.roster, hok.held, hok.rule, hok.offlineRule, hok.ready, hok.offlineReady, hok.agreed, hok.tag, hok.record,
      hok.hold, hok.period, hok.starters, hok.final, hok.overAt, hok.cause, hok.limit, hok.deadline,
      (Bool.and_false _).symm, hok.freeze, hok.frozen⟩

theorem State.powerOn_sessionOk (straps : Straps) (q : List Instr) (n : Nat) : (State.powerOn straps q n).SessionOk := by
  refine (State.SessionOk.offline_iff rfl).2 ⟨⟨⟨rfl, rfl, rfl, rfl, rfl, rfl, rfl, nofun, ?_, rfl, rfl, rfl, rfl⟩, rfl, rfl,
    rfl, rfl, rfl⟩, rfl⟩
  exact Standings.empty_at

theorem State.ResetTo.sessionOk (h : s.ResetTo t i) : t.SessionOk := by
  have hon : ∀ straps, (State.powerOn straps s.pending s.choices).SessionOk := fun _ => State.powerOn_sessionOk _ _ _
  obtain ⟨station, rate, auto, -, rfl⟩ | rfl := h
  · unfold State.release
    dsimp only
    split
    · exact (State.Effect.join (i := i) rfl).sessionOk (hon _)
    · exact hon _
  · exact hon _

/-- Settles O59: every effect is a chain of moves of the session's work or one of the few others, and each keeps it. -/
theorem stepsKeepTheSessionOk : Obligations.StepsKeepTheSessionOk := by
  intro s t h hstep
  refine step_preserves (P := State.SessionOk) (fun hsame h => ?_) (fun _ hto => hto.sessionOk)
    (fun h heffect => heffect.sessionOk h) (fun {s} h _ => h.of_shape (State.countTimers_shape s.clock.advance)) h hstep
  rw [hsame.moves]
  exact h.of_shape rfl

end Sys2Proof.Machine
end

section

/-! The reset line, the idle step, and the commands and events that a few fields describe: what each answers or acts (R2, R3,
R16, R17, R33, R41, R49, R138, R139, R187, R188, R200 to R202). -/

namespace Sys2Proof.Machine

variable {s t u : State} {i : Instr} {st : Station}

/-! ## Host commands at their command instant -/

/-- A command at its command instant that is taken answers OK with its bytes (R188). -/
theorem exec_report {judge : State → Answer} {bytes : List Byte} (hjudge : judgeOf i = some judge) (hears : s.hears i)
    (hreport : judge s = u.report bytes) : exec i s = .next (u.answering .ok bytes) := by
  rw [exec_judged hjudge hears, hreport]
  rfl

theorem exec_done {judge : State → Answer} (hjudge : judgeOf i = some judge) (hears : s.hears i)
    (hdone : judge s = u.done) : exec i s = .next (u.answering .ok []) := exec_report hjudge hears hdone

/-- A command at its command instant that is refused answers its status alone (R188). -/
theorem exec_refuse {judge : State → Answer} {status : Status} (hjudge : judgeOf i = some judge) (hears : s.hears i)
    (hrefuse : judge s = s.refuse status) : exec i s = .next (s.answering status []) := by
  rw [exec_judged hjudge hears, hrefuse]
  rfl

/-! ## Steps -/

/-- Settles O1. -/
theorem stepRunsTheFrontCommand : Obligations.StepRunsTheFrontCommand := by
  intro c rest s h
  unfold step
  rw [h]

theorem step_of_empty (h : s.pending = []) : step s = idle s := by
  unfold step
  rw [h]

/-- A microsecond of T runs every timer and moves nothing else (R39, R41). -/
theorem State.microsecond_moves : s.microsecond = { s with
    bus := { s.bus with period := countDown s.bus.period }
    link := { s.link with window := s.link.window - 1 }
    clock := s.clock.advance
    table := { s.table with freeze := s.table.freeze.map fun f => { f with left := f.left - 1 } }
    session := { s.session with abortHold := countDown s.session.abortHold }
    prox := { s.prox with timer := countDown s.prox.timer }
    port := s.port.tick } := by
  unfold State.microsecond
  rw [State.countTimers_moves]
  unfold State.setClock
  rfl

theorem Port.tick_eq (p : Port) : p.tick = { p with hdi := match p.ready, p.hdi with
    | true, x :: rest => { x with wait := x.wait - 1 } :: rest
    | _, bytes => bytes } := by
  unfold Port.tick nearer
  cases p.ready <;> cases hhdi : p.hdi <;> simp [← hhdi]

theorem Port.byteDue_iff (p : Port) :
    p.byteDue = true ↔ p.ready = true ∧ ∃ b rest, p.hdi = { wait := 0, value := b } :: rest := by
  unfold Port.byteDue
  rw [Bool.and_eq_true]
  refine and_congr_right fun _ => ?_
  cases p.hdi with
  | nil => simp
  | cons x rest =>
    obtain ⟨wait, value⟩ := x
    simp

/-- With an event due, one of them is taken, or a byte that is complete on HDI before it (assumption 3). -/
theorem State.chosenEvent_cases (h : s.dueEvents ≠ []) :
    (∃ c ∈ s.dueEvents, s.chosenEvent = some c) ∨ (s.port.byteDue = true ∧ s.chosenEvent = none) := by
  cases hchosen : s.chosenEvent with
  | some c => exact .inl ⟨c, List.mem_of_getElem? hchosen, rfl⟩
  | none =>
    refine .inr ⟨?_, rfl⟩
    cases hbyte : s.port.byteDue with
    | true => rfl
    | false => exact absurd (State.chosenEvent_none hbyte hchosen) h

theorem idle_of_chosen {c : Instr} (hreset : s.inReset = false) (h : s.chosenEvent = some c) :
    idle s = exec c s.picked := by
  simp [idle, hreset, h]

theorem idle_of_byte (hreset : s.inReset = false) (h : s.chosenEvent = none) (hbyte : s.port.byteDue = true) :
    idle s = s.picked.clockByte := by
  simp [idle, hreset, h, hbyte]

theorem State.chosenEvent_of_none_due (h : s.dueEvents = []) : s.chosenEvent = none := by
  simp [State.chosenEvent, h]

/-- Settles O2: `idle` branch by branch. -/
theorem idleStepMovesTheBlock : Obligations.IdleStepMovesTheBlock := by
  refine ⟨fun s hempty hreset hdue hbyte hpay => ?_, fun s hempty hreset hdue => ?_, fun s hempty hreset hdue hbyte => ?_,
    Port.byteDue_iff, fun s hempty hreset hdue hbyte hpay => ?_, fun s hempty hreset => ?_⟩ <;>
    rw [step_of_empty hempty]
  · refine ⟨s.microsecond, by simp [idle, hreset, State.chosenEvent_of_none_due hdue, hbyte, hpay], ?_⟩
    rw [State.microsecond_moves]
    refine ⟨?_, rfl, rfl, rfl, rfl, rfl, rfl, Port.tick_eq _, hempty, rfl, hreset, rfl, rfl, rfl, rfl, rfl⟩
    show s.clock.t + 1 + s.clock.k = s.clock.t + s.clock.k + 1
    bv_omega
  · obtain ⟨c, hc, hchosen⟩ | ⟨hbyte, hchosen⟩ := State.chosenEvent_cases hdue
    · exact .inl ⟨c, hc, idle_of_chosen hreset hchosen⟩
    · exact .inr ⟨hbyte, idle_of_byte hreset hchosen hbyte⟩
  · exact idle_of_byte hreset (State.chosenEvent_of_none_due hdue) hbyte
  · simp [idle, hreset, State.chosenEvent_of_none_due hdue, hbyte, hpay]
  · simp [idle, hreset]

/-! ## The reset line -/

/-- While RESET is low every command but the two of the reset line is ignored (R200). -/
theorem exec_of_inReset (h : s.inReset = true) (hrelease : ∀ st r a, i ≠ .resetRelease st r a)
    (hassert : i ≠ .resetAssert) : exec i s = .next s := by
  obtain rfl | ⟨station, rate, auto, rfl⟩ | ⟨judge, hjudge⟩ | ⟨cause, act, hevent⟩ := command_kind i
  · exact absurd rfl hassert
  · exact absurd rfl (hrelease _ _ _)
  · rw [exec_host hjudge]
    exact whenRunning_held h _
  · rw [exec_event hevent]
    exact whenRunning_held h _

/-- Settles O4. -/
theorem heldInResetNothingMoves : Obligations.HeldInResetNothingMoves := by
  refine ⟨fun s => ⟨s.hold, rfl, rfl, rfl, rfl, rfl, rfl, rfl, rfl, rfl, rfl, rfl, rfl, rfl, rfl, rfl, rfl, rfl, rfl, rfl,
    rfl, rfl, rfl⟩, ⟨fun i s => exec_of_inReset, fun s h => ⟨by simp [State.attention, h], fun n => by simp [State.hdo, h]⟩⟩,
    fun i s bs hbytes hears => ?_⟩
  by_cases hreset : s.inReset = true
  · exact exec_of_inReset hreset (by rintro _ _ _ rfl; cases hbytes) (by rintro rfl; cases hbytes)
  · refine exec_of_takes_eq_false hbytes ?_
    simp only [State.hears, not_and, Bool.not_eq_true] at hears hreset
    exact hears hreset

/-- Settles O5. -/
theorem softResetActsAtTheRise : Obligations.SoftResetActsAtTheRise := by
  refine ⟨fun s hears => exec_done rfl hears rfl, fun i s hreset hsoft hanswered hrise => ?_, fun _ _ _ => ⟨rfl, rfl, rfl⟩⟩
  obtain rfl | rfl | rfl := hrise
  · exact exec_caused (i := .softResetActs) rfl hreset hsoft
  · rw [exec_caused rfl hreset hanswered, State.raiseSelect_of_softReset hsoft]
    rfl
  · rw [exec_caused rfl hreset hanswered, State.raiseSelect_of_softReset hsoft]
    rfl

/-! ## The sweep's enable flag, the line and the chatter flags -/

/-- Settles O35. -/
theorem proxOnAndOff : Obligations.ProxOnAndOff := by
  refine fun s => ⟨fun hears => exec_done rfl hears ?_, fun hears => exec_done rfl hears rfl⟩
  unfold State.proxOn
  cases henabled : s.prox.enabled with
  | true =>
    have hsame : { s.prox with enabled := true } = s.prox := by rw [← henabled]
    simp only [if_true, Bool.true_eq_false, false_and, if_false, hsame]
    rfl
  | false => by_cases hracing : s.session.phase = .racing <;> simp [hracing, Prox.started]

/-- Settles O42. -/
theorem activityAndStartMark : Obligations.ActivityAndStartMark := by
  refine ⟨fun s hreset hline => exec_caused (i := .lineActivity) rfl hreset (beq_iff_eq.2 hline), fun s hreset hrun htx => ?_,
    fun s f n closing pending hreset hrun htx => ?_⟩
  · rw [exec_caused rfl hreset rfl]
    simp only [Bus.mark, hrun]
    cases hbus : s.bus.tx with
    | sending f n stamp closing pending => exact absurd hbus (htx _ _ _ _ _)
    | idle | waitIdle | defer => simp [Tx.isSending, ← hbus]
  · rw [exec_caused rfl hreset rfl]
    simp only [Bus.mark, hrun, htx]
    rfl

/-- Settles O50. -/
theorem clearFaultsClearsChatter : Obligations.ClearFaultsClearsChatter := fun _ hears =>
  ⟨_, exec_done rfl hears rfl, State.clearFaults_at, rfl, rfl⟩

/-- Settles O55: what each invariant's reset case has shown. -/
theorem resetIsSafe : Obligations.ResetIsSafe where
  port := ⟨rfl, fun _ => rfl, fun _ => rfl, nofun⟩
  store := Store.default_inRange
  queue := Table.powerOn_queueOk
  own := State.powerOn_ownQuiet _ _ _
  clock := .of_zero rfl rfl rfl rfl
  session := State.powerOn_sessionOk _ _ _

end Sys2Proof.Machine
end

section

/-! What the release of the reset pin leaves: the power-on state, and with AUTO the lobby of one that it joins (R200, R201). -/

namespace Sys2Proof.Machine

variable {s t u : State} {i : Instr} {st : Station}

/-- With nobody else live the own station gathers alone (R81). -/
theorem State.gathers_alone (h : ∀ x, s.live x = false) : s.gathers = fun x => x == s.own := by
  funext x
  simp [State.gathers, h]

theorem setOf_own (own : Station) : setOf (fun x => x == own) = single own := by
  revert own
  decide

theorem members_single (own : Station) : members (single own) = [own] := by
  revert own
  decide

/-- The full offer excludes nothing (R72). -/
theorem Offer.full_meet (a : Offer) : Offer.full.meet a = a := by
  obtain ⟨courses, laps, options⟩ := a
  have hcourses : 0xFF#8 &&& courses = courses := BitVec.allOnes_and
  have hlaps : 0xF#4 &&& laps = laps := BitVec.allOnes_and
  have hoptions : 3#2 &&& options = options := BitVec.allOnes_and
  simp [Offer.meet, Offer.full, hcourses, hlaps, hoptions]

/-- The common masks of the own station alone are its effective offer (R83). -/
theorem State.commonOffer_alone (h : s.session.lobbySet = single s.own) : s.commonOffer = s.session.effective := by
  rw [State.commonOffer, h, members_single, List.foldl_cons, List.foldl_nil, Offer.full_meet]
  simp [State.offerOf]

/-- Resolving the rule to one that is not the rule held latches RULE_CHANGE alone (R85, R86). -/
theorem State.resolveRule_changed {r : Rule} (hrule : ruleOf s.commonOffer = some r) (hheld : s.session.rule ≠ some r) :
    s.resolveRule = (s.signal .ruleChange).setSession { s.session with rule := some r, cleardownMark := false } := by
  unfold State.resolveRule
  simp only [hrule, if_neg (Ne.symm hheld), Option.isNone_some, Bool.false_and, Bool.false_eq_true, if_false]
  rfl

theorem State.powerOn_live (straps : Straps) (q : List Instr) (n : Nat) (x : Station) :
    (State.powerOn straps q n).live x = false := by
  simp [State.powerOn, State.live, Link.powerOn, Link.at, Sender.powerOn, Presence.live]

/-- The rule that AUTO joins with: the default store's (R201). -/
def Rule.autoJoin : Rule := { course := 0#3, lapCode := 3#2, options := 3#2 }

/-- What AUTO joins at the release: the lobby of the own station alone with the rule of the default store (R201). -/
theorem State.powerOn_joinLobby (straps : Straps) (q : List Instr) (n : Nat) :
    (State.powerOn straps q n).joinLobby =
      (((State.powerOn straps q n).setSession { (State.powerOn straps q n).session with
        phase := .lobby, rule := some Rule.autoJoin }).setBus
          { (State.powerOn straps q n).bus with period := some 4000 }).setPort
            { (State.powerOn straps q n).port with latch := 0x40#20 } := by
  unfold State.joinLobby
  dsimp only
  rw [State.reevaluate_lobby rfl (.inl rfl), State.recomputeLobby_of, State.resolveRule_changed (r := Rule.autoJoin)]
  · have hlatch : { Port.powerOn with latch := 0x40#20 } = Port.powerOn.occur .ruleChange none := by decide
    have hport : { (State.powerOn straps q n).port with latch := 0x40#20 } =
        (State.powerOn straps q n).port.occur .ruleChange none := hlatch
    rw [hport]
    rfl
  · rw [State.commonOffer_alone rfl]
    have hrule : ruleOf (Session.powerOn 0).effective = some Rule.autoJoin := by decide
    exact hrule
  · nofun
  · have hgathers : setOf (State.powerOn straps q n).gathers = single straps.station := by
      rw [State.gathers_alone (State.powerOn_live straps q n), setOf_own]
      rfl
    exact hgathers.symm

/-- With no kind in the mask ATTN is deasserted (R197). -/
theorem State.attention_of_mask (h : s.port.mask = 0) : s.attention = false := by
  simp [State.attention, h]

/-- Settles O3. -/
theorem releaseGivesThePowerOnState : Obligations.ReleaseGivesThePowerOnState := by
  refine ⟨fun st rate s => ⟨State.powerOn { station := st, rate := rate, auto := false } s.pending s.choices, rfl, ?_⟩,
    fun st rate s => ⟨(State.powerOn { station := st, rate := rate, auto := true } s.pending s.choices).joinLobby, rfl, ?_⟩⟩
  · refine ⟨rfl, rfl, rfl, rfl, rfl, ?_, rfl, rfl, rfl, rfl, rfl, rfl, rfl, rfl, ?_, rfl, rfl, ?_, rfl, rfl, rfl, rfl, rfl,
      rfl, rfl, rfl, rfl, ?_, rfl, rfl, rfl, ?_, rfl, rfl, rfl, rfl, rfl, rfl, rfl, rfl, rfl, rfl, rfl, ?_, ?_, rfl, rfl,
      rfl, ?_, rfl, rfl, rfl, rfl, rfl, rfl, rfl, rfl, rfl, rfl, rfl, ?_,
      State.attention_of_mask rfl⟩
    · exact fun i h => Store.default_get i h
    · intro x; simp [State.powerOn, Link.powerOn, Link.at, Sender.powerOn]
    · intro x; simp [State.powerOn, Table.powerOn, Table.at, Entry.empty]
    · intro x
      refine (member_single st x).trans ?_
      simp [eq_comm]
    · intro x; simp [State.powerOn, Session.powerOn, Session.proposalOf]
    · intro x; simp [State.powerOn, Prox.powerOn, Prox.at, ProxEntry.clear]
    · exact fun x => Standings.empty_at x
    · intro i h; simp [State.powerOn]
    · intro i h; simp [State.powerOn, Port.powerOn]
  · rw [State.powerOn_joinLobby]
    have hlatched : Port.latched { Port.powerOn with latch := 0x40#20 } .ruleChange = true := by decide
    exact ⟨rfl, rfl, rfl, rfl, rfl, rfl, rfl, rfl, rfl, rfl, rfl, hlatched, rfl, State.attention_of_mask rfl, rfl, rfl⟩

end Sys2Proof.Machine
end

section

/-! The transmitter and the line: a period expiry, deferrals, collisions and the end of an attempt (R8 to R15), and the judgement
of a run when the line goes idle (R17 to R20). -/

namespace Sys2Proof.Machine

variable {s t u : State} {i : Instr} {st : Station} {f : Frame} {n : Nat}

/-! ## Placing a frame -/

theorem State.contend_busy (h : s.bus.line = .busy) : s.contend f n = s.setBus { s.bus with tx := .waitIdle f n } := by
  simp [State.contend, h]

theorem State.contend_idle (h : s.bus.line = .idle) : s.contend f n = s.drawDeferral f n := by
  simp [State.contend, h]

/-- The transmitter is not in SENDING. -/
def Tx.Waits (x : Tx) : Prop := ∀ current n stamp closing pending, x ≠ .sending current n stamp closing pending

theorem Tx.waits_of_isSending {x : Tx} (h : x.isSending = false) : x.Waits := by
  rintro current n stamp closing pending rfl
  cases h

theorem State.place_sending {current : Frame} {stamp : Option Time} {closing : Bool} {old : Option Frame}
    (h : s.bus.tx = .sending current n stamp closing old) :
    s.place f = s.setBus { s.bus with tx := .sending current n stamp closing (some f) } := by
  simp [State.place, h]

theorem State.place_waits (h : s.bus.tx.Waits) : s.place f = s.contend f 1 := by
  unfold State.place
  split
  case h_4 k => exact absurd k (h _ _ _ _ _)
  all_goals rfl

/-- The body a period expiry assembles, by the phase (R9). -/
theorem State.assembleBody_eq {b : Body} (h : (∃ phase : BeaconPhase, ((s.session.phase = .lobby ∧ phase = .lobby) ∨
      (s.session.phase = .proposing ∧ phase = .proposing) ∨ (s.session.phase = .armed ∧ phase = .armed)) ∧
      b = .beacon (s.ownBeacon phase)) ∨
    (s.session.phase.hasStandings = true ∧ ∃ c, s.motion.live = some c ∧ b = .car c)) : s.assembleBody = some b := by
  unfold State.assembleBody
  obtain ⟨phase, ⟨hphase, rfl⟩ | ⟨hphase, rfl⟩ | ⟨hphase, rfl⟩, rfl⟩ | ⟨hphase, c, hlive, rfl⟩ := h
  · rw [hphase]
  · rw [hphase]
  · rw [hphase]
  · cases hp : s.session.phase <;> simp [hp, Phase.hasStandings] at hphase <;> simp [hlive]

/-- Settles O40. -/
theorem periodExpiryPlacesAFrame : Obligations.PeriodExpiryPlacesAFrame := by
  intro s b hreset hperiod hbody
  have hassemble : s.assembleBody = some b := by
    refine State.assembleBody_eq (hbody.imp_left ?_)
    rintro ⟨phase, hphase, rfl⟩
    refine ⟨phase, hphase, ?_⟩
    unfold State.ownBeacon ruleField
    rfl
  have hexpiry : s.periodExpiry = (s.setBus { s.bus with period := some s.store.period }).place
      { sender := s.own, tag := s.session.tag, body := b } := by
    have hframe : (s.setBus { s.bus with period := some s.store.period }).assemble =
        some { sender := s.own, tag := s.session.tag, body := b } := by
      show s.assembleBody.map _ = _
      rw [hassemble]
      rfl
    unfold State.periodExpiry
    simp only [hframe]
  refine ⟨s.periodExpiry, exec_caused (i := .framePeriodExpiry) rfl hreset (by simp [State.periodOver, hperiod]), ?_, ?_⟩
  · intro hline
    rw [hexpiry]
    cases htx : s.bus.tx with
    | sending current n stamp closing old => exact State.place_sending htx
    | idle | waitIdle | defer =>
      have hbusy : s.bus.line = .busy := hline.resolve_right (by simp [htx])
      have hwaits : s.bus.tx.Waits := Tx.waits_of_isSending (by rw [htx]; rfl)
      refine (State.place_waits ?_).trans ?_
      · exact hwaits
      · exact State.contend_busy hbusy
  · intro hidle hwaits
    rw [hexpiry]
    refine (State.place_waits ?_).trans ?_
    · exact hwaits
    · exact State.contend_idle hidle

/-! ## Deferrals -/

theorem State.drawDeferral_eq : ∃ d, d < drawRange n ∧ s.drawDeferral f n = (s.setChoices (s.choices + 1)).setBus
    (if d = 0 then { s.bus with tx := .sending f n none false none, line := .busy, run := .opening }
      else { s.bus with tx := .defer f n d }) := by
  refine ⟨s.pick Config.deferralDraw (drawRange n), Nat.mod_lt _ (by simp [drawRange]), ?_⟩
  unfold State.drawDeferral
  dsimp only
  split <;> rfl

/-- A run with the echo mark, or none at all, is not judged (R17). -/
theorem State.endRun_unjudged {c : Time} (h : s.bus.run = .closed ∨ s.bus.run = .collecting c true) (run : List RxByte) :
    s.endRun run = s := by
  obtain h | h := h <;> simp [State.endRun, h]

theorem State.endRun_judged {c : Time} (h : s.bus.run = .collecting c false) (run : List RxByte) :
    s.endRun run = s.judgeBytes c run := by
  simp [State.endRun, h]

/-- A bad frame is counted and discarded (R18, R21). -/
theorem State.judgeBytes_bad {run : List RxByte} (h : judgeRun run = none) (c : Time) :
    s.judgeBytes c run = s.setBus { s.bus with badFrames := satInc s.bus.badFrames } := by
  simp [State.judgeBytes, h]

/-- A valid frame is handed on (R19, R20). -/
theorem State.judgeBytes_valid {run : List RxByte} {stamp : Time} (h : judgeRun run = some (f, stamp)) (c : Time) :
    s.judgeBytes c run = if f.sender = s.own then s.signalAt .stationClash s.own
      else (s.countReception f.sender stamp c).receive f := by
  simp [State.judgeBytes, h, State.handOn]

/-- Judging a run moves nothing of the Bus Interface but the count of bad frames (R18 to R21). -/
theorem State.endRun_bus (run : List RxByte) :
    (s.endRun run).bus = { s.bus with badFrames := (s.endRun run).bus.badFrames } := by
  cases hrun : s.bus.run with
  | closed => rw [State.endRun_unjudged (c := 0) (.inl hrun)]
  | opening =>
    have hsame : s.endRun run = s := by simp [State.endRun, hrun]
    rw [hsame]
  | collecting c echo =>
    cases echo with
    | true => rw [State.endRun_unjudged (.inr hrun)]
    | false =>
      rw [State.endRun_judged hrun]
      cases hjudge : judgeRun run with
      | none => rw [State.judgeBytes_bad hjudge]; rfl
      | some p =>
        rw [State.judgeBytes_valid hjudge]
        split
        · rfl
        · rw [(State.receive_applies _).bus]; rfl

/-- What a frame in WAIT_IDLE does once the line is idle (R11). -/
def State.contending (t : State) (tx : Tx) : State :=
  match tx with
  | .waitIdle f n => t.drawDeferral f n
  | .idle => t
  | .defer _ _ _ => t
  | .sending _ _ _ _ _ => t

theorem State.resume_eq : s.resume = s.contending s.bus.tx := by
  unfold State.resume State.contending
  rfl

/-- The line goes idle: the run is judged, and a frame that waits draws its deferral (R2, R11, R17). -/
theorem exec_lineIdle (hreset : s.inReset = false) (hline : s.bus.line = .busy) (hrun : s.bus.run ≠ .opening)
    (htx : s.bus.tx.Waits) (run : List RxByte) : exec (.lineIdle run) s = .next
      (((s.endRun run).setBus { (s.endRun run).bus with line := .idle, run := .closed }).contending s.bus.tx) := by
  have hidle : s.bus.mayIdle = true := by
    have hsending : s.bus.tx.isSending = false := by
      cases k : s.bus.tx with
      | sending => exact absurd k (htx _ _ _ _ _)
      | idle | waitIdle | defer => rfl
    simp [Bus.mayIdle, hline, hrun, hsending]
  rw [exec_caused (i := .lineIdle run) rfl hreset hidle, State.goIdle]
  dsimp only
  rw [State.resume_eq, State.setBus_bus, congrArg Bus.tx (State.endRun_bus run)]

/-- A counted slot (R2, R11). -/
theorem State.countSlot_defer {d : Nat} (hline : s.bus.line = .idle) (htx : s.bus.tx = .defer f n (d + 1)) :
    s.countSlot = s.setBus
      (if d = 0 then { s.bus with tx := .sending f n none false none, line := .busy, run := .opening }
        else { s.bus with tx := .defer f n d }) := by
  unfold State.countSlot
  rw [hline, htx]
  cases d with
  | zero => rfl
  | succ d => simp

/-- Settles O41. -/
theorem deferralIsDrawnAndCounted : Obligations.DeferralIsDrawnAndCounted := by
  refine ⟨fun s f n _ _ => State.drawDeferral_eq, fun s f n run hreset hline hrun htx => ⟨?_, State.endRun_bus run⟩,
    fun s f n d hreset hline htx => ?_⟩
  · rw [exec_lineIdle hreset hline hrun (Tx.waits_of_isSending (by rw [htx]; rfl)) run, htx]
    rfl
  · rw [exec_caused (i := .deferralSlot) rfl hreset rfl, State.countSlot_defer hline htx]

/-! ## The end of an attempt -/

/-- The counter saturates at 65,535 (R21). -/
theorem satInc_eq (x : BitVec 16) : satInc x = if x = 65535#16 then x else x + 1#16 := rfl

/-- What follows a collision on the frame on the line, a closing frame ending with it (R13, R15). -/
def State.collided (s : State) (f : Frame) (n : Nat) (closing : Bool) (pending : Option Frame) : State :=
  if closing then s.setBus { s.bus with tx := .idle } else s.afterCollision f n pending

/-- A write to the port of what stands there changes nothing. -/
@[simp] theorem State.setBus_setPort_self (x : Bus) : (s.setBus x).setPort s.port = s.setBus x := rfl

/-- On a busy line it ends the attempt: the frame waits for a retry, pending takes its place, or it is dropped and counted,
and FRAME_DROPPED latches (R13, R15). -/
theorem State.collided_busy (hline : s.bus.line = .busy) (f : Frame) (n : Nat) (closing : Bool) (pending : Option Frame) :
    (s.collided f n closing pending).bus = { s.bus with
      dropped := if closing = false ∧ pending = none ∧ 3 ≤ n ∧ s.bus.dropped ≠ 65535#16 then s.bus.dropped + 1#16
        else s.bus.dropped
      tx := if closing then .idle else match pending with
        | some p => .waitIdle p 1
        | none => if n < 3 then .waitIdle f (n + 1) else .idle } ∧
    (∀ e : Event, (s.collided f n closing pending).port.latched e = (s.port.latched e ||
      (decide (e = .frameDropped) && decide (closing = false ∧ pending = none ∧ 3 ≤ n)))) ∧
    s.collided f n closing pending =
      (s.setBus (s.collided f n closing pending).bus).setPort (s.collided f n closing pending).port := by
  unfold State.collided State.afterCollision
  cases closing with
  | true => simp
  | false =>
    cases pending with
    | some p => simp [State.contend_busy hline]
    | none =>
      by_cases hn : n < 3
      · have hle : n + 1 ≤ 3 := hn
        simp [hn, hle, State.contend_busy hline]
      · have hle : ¬ n + 1 ≤ 3 := hn
        have h3 : 3 ≤ n := by omega
        refine ⟨?_, fun e => ?_, ?_⟩
        · by_cases hfull : s.bus.dropped = 65535#16 <;>
            simp [hn, hle, hfull, State.signal, satInc_eq]
        · simp [hle, h3, State.signal, Port.occur_latched]
        · simp [hle, State.signal]

theorem State.collide_eq {stamp : Option Time} {closing : Bool} {pending : Option Frame} {index : Nat} {sent : Byte}
    {echo : RxByte} (htx : s.bus.tx = .sending f n stamp closing pending) (hsent : f.sentByte stamp index = some sent)
    (hecho : echo.framingError = true ∨ echo.value ≠ sent) : s.collide index echo =
      (s.setBus { s.bus.mark s.now with collisions := satInc s.bus.collisions }).collided f n closing pending := by
  have hdiffers : echoDiffers sent echo = true := by
    unfold echoDiffers
    simpa using hecho
  unfold State.collide State.collided
  simp only [htx, hsent, hdiffers, if_true]

/-- Settles O43. -/
theorem attemptsEndInCollisionOrSuccess : Obligations.AttemptsEndInCollisionOrSuccess := by
  refine ⟨fun s f n index c stamp closing echoMark pending sent echo hreset hline hrun htx hsent hecho => ?_,
    fun s f n closing pending echo hreset hline hrun htx hecho => ?_,
    fun s f n stamp closing pending echo hreset hline htx hframing hlast => ?_⟩
  · have hmark : s.bus.mark s.now = s.bus := by simp [Bus.mark, hrun]
    refine ⟨_, (exec_caused (i := .collision index echo) rfl hreset rfl).trans
      (congrArg _ (State.collide_eq htx (by simpa [Frame.sentByte] using hsent) hecho)), ?_⟩
    rw [hmark]
    obtain ⟨hbus, hlatched, hmoves⟩ := State.collided_busy (s := s.setBus { s.bus with collisions := satInc s.bus.collisions })
      hline f n closing pending
    exact ⟨hbus, hlatched, hmoves⟩
  · have hsync : f.sentByte none 0 = some 0x5D#8 := rfl
    have hmark : s.bus.mark s.now = { s.bus with
        run := .collecting s.now true, tx := .sending f n (some s.now) closing pending } := by
      simp [Bus.mark, hrun, htx, Tx.isSending]
    refine ⟨_, (exec_caused (i := .collision 0 echo) rfl hreset rfl).trans
      (congrArg _ (State.collide_eq htx hsync hecho)), ?_⟩
    rw [hmark]
    obtain ⟨hbus, hlatched, hmoves⟩ := State.collided_busy (s := s.setBus { s.bus with
      run := .collecting s.now true, tx := .sending f n (some s.now) closing pending
      collisions := satInc s.bus.collisions }) hline f n closing pending
    exact ⟨hbus, hlatched, hmoves⟩
  · have hsame : echoDiffers echo.value echo = false := by simp [echoDiffers, hframing]
    rw [exec_caused (i := .txSuccess echo) rfl hreset rfl]
    unfold State.succeed
    simp only [htx, hlast, hsame]
    cases closing with
    | true => rfl
    | false => cases pending <;> simp [State.takePending, State.contend_busy hline]

end Sys2Proof.Machine
end

section

/-! The event latch: what an occurrence moves, that a latched kind stays, and READ EVENTS (R195, R198). -/

namespace Sys2Proof.Machine

variable {s t u : State} {i : Instr} {st : Station}

/-! ## One occurrence -/

/-- The detail of the occurrence's kind takes the station named; every other stays (R195). -/
theorem Port.occur_details (p : Port) (e : Event) (w : Option Station) (i : Fin 9) :
    (p.occur e w).details[i] = if e.detail = some i then w.getD p.details[i] else p.details[i] := by
  unfold Port.occur
  cases hdetail : e.detail with
  | none => simp
  | some j =>
    cases w with
    | none => simp
    | some st => simp [Vector.getElem_set, Fin.ext_iff]

theorem Port.occur_latched_self (p : Port) (e : Event) (w : Option Station) : (p.occur e w).latched e = true := by
  rw [Port.occur_latched]; simp

theorem Port.occur_latched_ne (p : Port) {e e' : Event} (w : Option Station) (h : e' ≠ e) :
    (p.occur e w).latched e' = p.latched e' := by
  rw [Port.occur_latched]; simp [h]

/-- The occurrence's own mark is set during the response of a READ EVENTS, and no other (R195). -/
theorem Port.occur_marks (p : Port) (e e' : Event) (w : Option Station) :
    (p.occur e w).marks.getLsbD e'.bit = (p.marks.getLsbD e'.bit || (p.readEvents.open && decide (e' = e))) := by
  unfold Port.occur
  cases p.readEvents.open with
  | false => simp
  | true =>
    simp only [if_true, Bool.true_and, BitVec.getLsbD_or]
    congr 1
    cases e <;> cases e' <;> rfl

/-! ## A latched kind stays -/

/-- A latch that only grows keeps each kind latched (R195). -/
theorem Port.latched_of_and {p q : Port} (h : p.latch &&& q.latch = p.latch) {e : Event} (hlatched : p.latched e = true) :
    q.latched e = true := by
  unfold Port.latched at *
  rw [← h, BitVec.getLsbD_and, Bool.and_eq_true] at hlatched
  exact hlatched.2

/-- No host command clears a kind at its command instant (R195, R198). -/
theorem judgeOf_latch {judge : State → Answer} (h : judgeOf i = some judge) :
    s.port.latch &&& (judge s).state.port.latch = s.port.latch := by
  cases i <;> cases h
  case readStatus | readLobby | readCountdown | readClock | readCars | readProx => exact BitVec.and_self
  case readEvents | softReset | proxOff | clearFaults => exact BitVec.and_self
  case setEventMask mask => exact BitVec.and_self
  case configure p => unfold State.configure; split <;> exact BitVec.and_self
  case setCourse index length =>
    unfold State.setCourse
    repeat' split
    all_goals exact BitVec.and_self
  case setPattern index steps =>
    unfold State.setPattern
    repeat' split
    all_goals exact BitVec.and_self
  case join =>
    unfold State.join
    split
    · exact State.joinLobby_grows.latch
    · exact BitVec.and_self
  case leave =>
    unfold State.leave
    split
    · exact BitVec.and_self
    · exact State.leaveRace_grows.latch
  case newRace =>
    unfold State.newRace
    split
    · exact (State.newRaceSession_quiet.toApplies.trans State.removeRace_applies).port.latch
    · exact BitVec.and_self
  case setOffer courses laps options => exact (State.setOffer_quiet courses laps options).port.latch
  case setReady => exact State.setReady_quiet.port.latch
  case clearReady => exact State.clearReady_quiet.port.latch
  case postCar p => exact (State.postCar_quiet p).port.latch
  case readPeer station => unfold State.readPeer; split <;> exact BitVec.and_self
  case freeze =>
    unfold State.freeze
    repeat' split
    all_goals exact BitVec.and_self
  case thaw =>
    unfold State.thaw
    split
    · exact State.endFreeze_applies.port.latch
    · exact BitVec.and_self
  case proxOn => unfold State.proxOn; split <;> exact BitVec.and_self
  case readStandings start count => unfold State.readStandings; split <;> exact BitVec.and_self
  case readLine place pattern =>
    unfold State.readLine
    repeat' split
    all_goals exact BitVec.and_self

/-- No event whose cause stands clears a kind, but the end of READ EVENTS and a reset (R195, R198). -/
theorem eventOf_latch {cause : State → Bool} {act : State → State} (h : eventOf i = some (cause, act))
    (hcause : cause s = true) (hreset : ¬ s.resetBy i) (hend : i ≠ .readEventsEnd) :
    s.port.latch &&& (act s).port.latch = s.port.latch := by
  have hrise : i = .softResetActs ∨ i = .transactionEnd ∨ i = .responseEndedEarly → s.port.softReset = false := by
    intro hi
    by_contra hsoft
    exact hreset (.inr ⟨by simpa using hsoft, hi⟩)
  have same : ∀ {p : Port}, p = s.port → s.port.latch &&& p.latch = s.port.latch := fun hp => by
    rw [hp]; exact BitVec.and_self
  cases i <;> cases h
  case unknownCommand | transactionBegin | lineActivity | startMark => exact BitVec.and_self
  case readEventsEnd => exact absurd rfl hend
  case softResetActs => exact absurd hcause (by simp [hrise])
  case transactionEnd | responseEndedEarly => simp [State.raiseSelect_of_not_softReset, hrise]
  case truncated clocks =>
    unfold State.truncate
    dsimp only
    split
    · exact BitVec.and_self
    · exact (Port.occur_grows s.port .truncated none).latch
  case framePeriodExpiry => exact same State.periodExpiry_port
  case deferralSlot => exact same State.countSlot_port
  case txSuccess echo => exact same (State.succeed_port echo)
  case lineIdle run => exact (State.goIdle_grows run).latch
  case collision index echo => exact (State.collide_grows index echo).latch
  case windowExpiry => exact State.windowEvaluation_keeps.port.latch
  case debtPayment => show s.port.latch &&& s.port.tick.latch = _; rw [Port.tick_moves]; exact BitVec.and_self
  case freezeTimerExpiry => exact (State.endFreeze_applies.trans (State.signal_quiet _).toApplies).port.latch
  case abortHoldExpiry => exact ((State.setSession_quiet _).trans State.reevaluate_quiet).port.latch
  case sweepStep => exact State.sweep_quiet.port.latch
  case startInstant => exact State.start_quiet.port.latch
  case finishDeadline | raceLimit => exact State.checkRaceEnd_quiet.port.latch

/-- The latch only grows, through every command and event but the end of READ EVENTS and the resets (R195, R198). -/
theorem exec_latch (h : exec i s = .next t) (hreset : ¬ s.resetBy i) (hend : i ≠ .readEventsEnd) :
    s.port.latch &&& t.port.latch = s.port.latch := by
  obtain ⟨-, rfl⟩ | ⟨station, rate, auto, rfl, -⟩ | rfl | ⟨judge, hjudge, -, rfl⟩ | ⟨cause, act, hevent, -, hcause, rfl⟩ :=
    exec_cases h
  · exact BitVec.and_self
  · exact absurd (.inl ⟨station, rate, auto, rfl⟩) hreset
  · exact BitVec.and_self
  · exact judgeOf_latch hjudge
  · exact eventOf_latch hevent hcause hreset hend

/-- Settles O9: an occurrence flag by flag, and the latch that only grows. -/
theorem eventsLatchAndStay : Obligations.EventsLatchAndStay :=
  ⟨fun p e w => ⟨fun e' => Port.occur_latched p e e' w, fun e' => Port.occur_marks p e e' w, Port.occur_details p e w,
    rfl, rfl, rfl⟩, fun _ _ _ _ hexec hend hreset => Port.latched_of_and (exec_latch hexec hreset hend)⟩

/-! ## READ EVENTS -/

/-- The latch as READ EVENTS sends it, the four unused bits 0 (R198). -/
theorem be3_latch (x : BitVec 20) : be3 (x.setWidth 24) =
    [(x.extractLsb' 16 4).setWidth 8, x.extractLsb' 8 8, x.extractLsb' 0 8] := by
  simp only [be3, List.cons.injEq, and_true]
  refine ⟨?_, ?_, ?_⟩ <;> apply BitVec.eq_of_toNat_eq <;> simp [Nat.shiftRight_eq_div_pow] <;> omega

/-- The end of READ EVENTS clears each kind of the snapshot whose since-snapshot mark is clear (R198). -/
theorem Port.endReadEvents_latched {p : Port} {snapshot : BitVec 20} (h : p.readEvents = .sending snapshot) (e : Event) :
    p.endReadEvents.latched e = (p.latched e && (!snapshot.getLsbD e.bit || p.marks.getLsbD e.bit)) := by
  simp [Port.endReadEvents, Port.latched, h, Event.bit_lt]

/-- Settles O8: the command instant, and the last byte of the response. -/
theorem readEventsClearsWhatItReported : Obligations.ReadEventsClearsWhatItReported := by
  refine ⟨fun s hhears => ?_, fun s snapshot hreset hstate hsending => ?_⟩
  · rw [exec_report (u := s.setPort { s.port with marks := 0, readEvents := .sending s.port.latch })
      (judge := State.readEvents) rfl hhears rfl, Port.eventBytes, be3_latch]
    rfl
  · have hopen : s.port.readEvents.open = true := by rw [hsending]; rfl
    refine ⟨_, exec_caused (i := .readEventsEnd) rfl hreset (by simp [hstate, hopen]), rfl, ?_,
      Port.endReadEvents_latched hsending⟩
    show s.port.endReadEvents = { s.port with latch := s.port.endReadEvents.latch, readEvents := .sent }
    unfold Port.endReadEvents
    rw [hsending]

end Sys2Proof.Machine
end

section

/-! The end of a run and the Receive Queue: how a run is judged (R17 to R20), what a valid frame of a peer does to the table
(R20 to R25, R57 to R62), and the freeze (R64 to R67). -/

namespace Sys2Proof.Machine

variable {s t u : State} {i : Instr} {st : Station} {f g : Frame} {pre post : List Frame}

/-! ## The run -/

/-- Settles O44, by what stands in the run. -/
theorem lineIdleJudgesTheRun : Obligations.LineIdleJudgesTheRun := by
  intro s run c hreset hline hwaits contending
  have hcontending : ∀ t : State, contending t = t.contending s.bus.tx := fun t => by
    show (match s.bus.tx with | .waitIdle f n => t.drawDeferral f n | _ => t) = _
    unfold State.contending
    cases s.bus.tx <;> rfl
  have hidle : s.bus.run ≠ .opening →
      exec (.lineIdle run) s = .next
        (contending ((s.endRun run).setBus { (s.endRun run).bus with line := .idle, run := .closed })) := fun hrun => by
    rw [exec_lineIdle hreset hline hrun hwaits run, hcontending]
  refine ⟨fun hrun => ?_, fun hrun hbad => ?_, fun f stamp hrun hvalid hsender => ?_⟩
  · have hopening : s.bus.run ≠ .opening := by
      obtain k | k := hrun <;> rw [k] <;> nofun
    rw [hidle hopening, State.endRun_unjudged hrun]
  · have hopening : s.bus.run ≠ .opening := by rw [hrun]; nofun
    rw [hidle hopening, State.endRun_judged hrun, State.judgeBytes_bad hbad]
    rfl
  · have hopening : s.bus.run ≠ .opening := by rw [hrun]; nofun
    have hclash : s.endRun run = s.signalAt .stationClash s.own := by
      rw [State.endRun_judged hrun, State.judgeBytes_valid hvalid, if_pos hsender]
    refine ⟨_, hidle hopening, ?_⟩
    rw [hclash]
    refine ⟨rfl, ?_, ?_, fun e he => ?_⟩
    · exact Port.occur_latched_self _ _ (some s.own)
    · exact Port.occur_details s.port .stationClash (some s.own) 4
    · exact Port.occur_latched_ne _ (some s.own) he

/-! ## The Receive Queue -/

theorem mergeInto_of_ne (h : ∀ x ∈ pre, x.sender ≠ f.sender) (hg : g.sender = f.sender) :
    mergeInto f (pre ++ g :: post) = pre ++ f :: post := by
  induction pre with
  | nil => simp [mergeInto, hg]
  | cons x xs ih =>
    have hx : x.sender ≠ f.sender := h x (List.mem_cons_self ..)
    have hxs : mergeInto f (xs ++ g :: post) = xs ++ f :: post := ih fun y hy => h y (List.mem_cons_of_mem x hy)
    simp [mergeInto, hx, hxs]

theorem mem_mergeInto {q : List Frame} (h : ∃ g ∈ q, g.sender = f.sender) : f ∈ mergeInto f q := by
  induction q with
  | nil => obtain ⟨g, hg, -⟩ := h; cases hg
  | cons x xs ih =>
    unfold mergeInto
    split
    · exact List.mem_cons_self ..
    · next hx =>
      obtain ⟨g, hg, hsender⟩ := h
      obtain rfl | hmem := List.mem_cons.1 hg
      · exact absurd hsender hx
      · exact List.mem_cons_of_mem x (ih ⟨g, hmem, hsender⟩)

/-- A frame of a sender that waits replaces that frame (R57). -/
theorem State.enqueue_merges (h : ∃ g ∈ s.table.queue, g.sender = f.sender) : s.enqueue f =
    s.setTable { s.table with queue := mergeInto f s.table.queue, merges := satInc s.table.merges } := by
  have hqueued : queued f.sender s.table.queue = true := (queued_iff _).2 (by simpa using h)
  simp [State.enqueue, hqueued]

theorem State.enqueue_joins (h : ∀ g ∈ s.table.queue, g.sender ≠ f.sender) : s.enqueue f = s.makeRoom.joinTail f := by
  have hqueued : ¬ queued f.sender s.table.queue = true := by rw [queued_iff]; simpa using h
  simp [State.enqueue, hqueued]

theorem State.makeRoom_of_lt (h : s.table.queue.length < 8) : s.makeRoom = s := by
  unfold State.makeRoom
  split
  · rfl
  · exact if_neg (by simpa [Config.queueDepth] using h)

/-- At 8 entries the head is discarded, with its counter and its event (R58). -/
theorem State.makeRoom_full {head : Frame} {rest : List Frame} (hqueue : s.table.queue = head :: rest)
    (hlength : rest.length = 7) : s.makeRoom = (s.setTable { s.table with
      queue := rest, overruns := satInc s.table.overruns }).signalAt .rxqOverrun head.sender := by
  have hfull : Config.queueDepth ≤ s.table.queue.length := by simp [hqueue, hlength, Config.queueDepth]
  unfold State.makeRoom
  split
  · next k => rw [hqueue] at k; cases k
  · next g gs k =>
    rw [hqueue] at k
    obtain ⟨rfl, rfl⟩ := List.cons.inj k
    exact if_pos hfull

theorem State.joinTail_table : (s.joinTail f).table = { s.table with queue := s.table.queue ++ [f] } := by
  unfold State.joinTail
  dsimp only
  split <;> rfl

/-- RXQ_HIGH latches as the sixth entry joins (R59). -/
theorem State.joinTail_latched (e : Event) : (s.joinTail f).port.latched e =
    (s.port.latched e || (decide (e = .rxqHigh) && decide (s.table.queue.length = 5))) := by
  unfold State.joinTail
  dsimp only
  split
  · next h => exact (Port.occur_latched _ _ _ none).trans (by simp [h])
  · next h => simp [h]

/-- Settles O51, by the frame merging, joining below 8 entries, or joining at 8. -/
theorem theQueueMergesJoinsAndOverruns : Obligations.TheQueueMergesJoinsAndOverruns := by
  intro s f
  refine ⟨fun hwaiting => ?_, fun hnew hroom => ?_, fun head rest hnew hqueue hlength => ?_⟩
  · rw [State.enqueue_merges hwaiting]
    refine ⟨mergeInto_senders f _, mem_mergeInto hwaiting, fun pre g post hqueue hg hpre => ?_, rfl, rfl, rfl⟩
    rw [State.setTable_table, hqueue, mergeInto_of_ne hpre hg]
    rfl
  · rw [State.enqueue_joins hnew, State.makeRoom_of_lt hroom]
    exact ⟨State.joinTail_table, State.joinTail_latched⟩
  · have hseven : rest.length ≠ 5 := by omega
    have hjoined : s.enqueue f = (s.makeRoom.setTable { s.makeRoom.table with queue := s.makeRoom.table.queue ++ [f] }) := by
      rw [State.enqueue_joins hnew, State.makeRoom_full hqueue hlength]
      exact if_neg hseven
    rw [hjoined, State.makeRoom_full hqueue hlength]
    refine ⟨rfl, ?_, ?_, fun e he => ?_⟩
    · exact Port.occur_latched_self _ _ (some head.sender)
    · exact Port.occur_details s.port .rxqOverrun (some head.sender) 8
    · exact Port.occur_latched_ne _ (some head.sender) he

/-! ## A valid frame of a peer -/

/-- The queue takes nothing from the Link Monitor (R57). -/
theorem State.enqueue_setLink (l : Link) : (s.setLink l).enqueue f = (s.enqueue f).setLink l := by
  by_cases hwaiting : ∃ g ∈ s.table.queue, g.sender = f.sender
  · rw [State.enqueue_merges (s := s.setLink l) hwaiting, State.enqueue_merges hwaiting]
    rfl
  · have hnew : ∀ g ∈ s.table.queue, g.sender ≠ f.sender := by simpa using hwaiting
    have hroom : (s.setLink l).makeRoom = s.makeRoom.setLink l := by
      unfold State.makeRoom
      rw [State.setLink_table]
      split
      · rfl
      · split <;> rfl
    rw [State.enqueue_joins (s := s.setLink l) hnew, State.enqueue_joins hnew, hroom]
    unfold State.joinTail
    rw [State.setLink_table]
    dsimp only
    split <;> rfl

/-- A frame received while the table is not frozen, and so with nothing waiting, is applied at once (R60). -/
theorem State.receive_applied (hfreeze : s.table.freeze = none) (hqueue : s.table.queue = []) :
    s.receive f = s.applyFrame f s.now := by
  have hjoined : s.enqueue f = s.setTable { s.table with queue := [f] } := by
    rw [State.enqueue_joins (by simp [hqueue]), State.makeRoom_of_lt (by simp [hqueue])]
    simp [State.joinTail, hqueue]
  have hpopped : (s.setTable { s.table with queue := [f] }).popQueue = s := by
    show s.setTable { s.table with queue := [] } = s
    rw [← hqueue]
    rfl
  have hdrain : s.receive f = (s.setTable { s.table with queue := [f] }).drain s.now := by
    unfold State.receive
    rw [hjoined]
    dsimp only
    rw [State.setTable_table]
    split
    · next k => rw [hfreeze] at k; cases k
    · rfl
  rw [hdrain]
  show (State.applyFrame (State.popQueue _) f s.now) = _
  rw [hpopped]

/-- While the table is frozen a frame received only waits (R57, R65). -/
theorem State.receive_frozen (hfreeze : s.table.freeze ≠ none) : s.receive f = s.enqueue f := by
  unfold State.receive
  dsimp only
  split
  · rfl
  · next k => exact absurd (State.enqueue_freeze f ▸ k) hfreeze

/-- A beacon replaces the stored one and removes a car record of another session tag (R61). -/
theorem State.appliedEntry_beacon {b : Beacon} (h : f.body = .beacon b) (ta : Time) :
    (s.appliedEntry f ta).beacon = some (f.tag, b) ∧ (s.appliedEntry f ta).lastKind = .beacon ∧
      (s.appliedEntry f ta).car = match (s.table.at f.sender).car with
        | some (tag, x) => if tag = f.tag then some (tag, x) else none
        | none => none := by
  unfold State.appliedEntry
  rw [h]
  refine ⟨rfl, rfl, ?_⟩
  unfold Entry.withBeacon
  rcases hcar : (s.table.at f.sender).car with - | ⟨tag, x⟩
  · rfl
  · simp

theorem State.appliedEntry_car {x : CarRecord} (h : f.body = .car x) (ta : Time) : s.appliedEntry f ta =
    { beacon := (s.table.at f.sender).beacon, car := some (f.tag, x), lastKind := .car, blendStart := ta,
      residual := s.newResidual f.sender f.tag x ta } := by
  unfold State.appliedEntry
  rw [h]
  rfl

/-- The window count saturates at 255 (R23). -/
theorem satInc8_eq (x : BitVec 8) : satInc8 x = if x = 255#8 then 255#8 else x + 1#8 := by
  unfold satInc8
  split
  · next h => exact h
  · rfl

/-- Settles O45: the reception counted, then the frame applied at once or waiting in the queue. -/
theorem receivedFramesReachTheTable : Obligations.ReceivedFramesReachTheTable := by
  intro s run c stamp f hreset hline hwaits hrun hvalid hsender hqueue
  have hreceived : s.endRun run = (s.countReception f.sender stamp c).receive f := by
    rw [State.endRun_judged hrun, State.judgeBytes_valid hvalid, if_neg hsender]
  have happlies := State.receive_applies (s := s.countReception f.sender stamp c) f
  have hexec := exec_lineIdle hreset hline (by rw [hrun]; nofun) hwaits run
  rw [hreceived, happlies.bus] at hexec
  refine ⟨((s.countReception f.sender stamp c).receive f).setBus { s.bus with line := .idle, run := .closed },
    hexec.trans ?_, fun hfreeze => ?_, rfl, ?_, fun st hne => ?_, ?_, fun hfreeze => ?_, fun hfreeze => ?_,
    happlies.pending, happlies.choices, happlies.inReset.trans hreset, happlies.straps, happlies.store,
    happlies.clock, happlies.patterns, happlies.port.mask, happlies.port.state⟩
  · unfold State.contending
    cases s.bus.tx <;> rfl
  · rw [State.receive_applied (s := s.countReception f.sender stamp c) hfreeze (hqueue.empty hfreeze)]
    rfl
  · rw [State.setBus_link, happlies.link]
    refine (Link.put_at_self s.link f.sender _).trans ?_
    unfold Sender.heard
    rw [satInc8_eq]
    rfl
  · rw [State.setBus_link, happlies.link]
    exact Link.put_at_ne _ _ hne
  · rw [State.setBus_link, happlies.link]
    rfl
  · have hempty := hqueue.empty hfreeze
    rw [State.setBus_table, State.setBus_link, happlies.link,
      State.receive_applied (s := s.countReception f.sender stamp c) hfreeze hempty, State.applyFrame_table]
    refine ⟨hempty, hfreeze, fun st hne => Table.put_at_ne _ _ hne, fun b hb => ?_, fun x hx => ?_⟩
    · rw [Table.put_at_self]
      exact State.appliedEntry_beacon hb _
    · rw [Table.put_at_self]
      exact State.appliedEntry_car hx _
  · have hwaiting : (s.countReception f.sender stamp c).enqueue f = (s.enqueue f).setLink _ := State.enqueue_setLink _
    rw [State.receive_frozen (s := s.countReception f.sender stamp c) hfreeze, hwaiting, State.enqueue_moves]
    exact ⟨rfl, rfl, rfl, rfl, rfl, rfl, rfl⟩

/-! ## The freeze -/

variable {x : Freeze} {ta : Time}

/-- The freeze ends: the queue is applied at V, then the table is no longer frozen and the frozen copy is released (R66). -/
theorem State.endFreeze_frozen (h : s.table.freeze = some x) : s.endFreeze =
    ((drainList x.view s.table.queue s).setTable { (drainList x.view s.table.queue s).table with freeze := none }).setMotion
      { (drainList x.view s.table.queue s).motion with frozen := none } := by
  unfold State.endFreeze State.drain
  rw [h]

/-- A drain leaves in the entry of a sender what its one waiting frame carried (R61, R62, R66). -/
theorem drainList_applied {l : List Frame} (hg : g ∈ l) (hone : ∀ g' ∈ l, g'.sender = g.sender → g' = g) : ∀ s : State,
    ∃ u : State, (drainList ta l s).table.at g.sender = u.appliedEntry g ta := by
  induction l with
  | nil => cases hg
  | cons f fs ih =>
    intro s
    by_cases hlater : g ∈ fs
    · exact ih hlater (fun g' hg' => hone g' (List.mem_cons_of_mem f hg')) _
    · obtain rfl : g = f := (List.mem_cons.1 hg).resolve_right hlater
      have hothers : ∀ g' ∈ fs, g'.sender ≠ g.sender := fun g' hg' hsender =>
        hlater (hone g' (List.mem_cons_of_mem g hg') hsender ▸ hg')
      refine ⟨s.popQueue, ?_⟩
      rw [drainList, drainList_at _ _ _ hothers, State.applyFrame_table, Table.put_at_self]

/-- What every end of a freeze leaves, the port apart (R65, R66). -/
theorem State.endFreeze_table (h : s.table.freeze = some x) :
    s.endFreeze.table.queue = [] ∧ s.endFreeze.table.freeze = none ∧ s.endFreeze.motion.frozen = none ∧
      s.endFreeze.table.merges = s.table.merges ∧ s.endFreeze.table.overruns = s.table.overruns := by
  obtain ⟨-, -, hmerges, hoverruns⟩ := drainList_rest x.view s.table.queue s
  rw [State.endFreeze_frozen h]
  exact ⟨State.drain_queue _, rfl, rfl, hmerges, hoverruns⟩

/-- One waiting frame is applied as it would be on the table without it, at V (R66). -/
theorem State.endFreeze_one (h : s.table.freeze = some x) (hqueue : s.table.queue = [g]) :
    s.endFreeze.table.entries = ((s.setTable { s.table with queue := [] }).applyFrame g x.view).table.entries ∧
      s.endFreeze.session = ((s.setTable { s.table with queue := [] }).applyFrame g x.view).session ∧
      s.endFreeze.standings = ((s.setTable { s.table with queue := [] }).applyFrame g x.view).standings ∧
      s.endFreeze.prox = ((s.setTable { s.table with queue := [] }).applyFrame g x.view).prox ∧
      s.endFreeze.motion =
        { ((s.setTable { s.table with queue := [] }).applyFrame g x.view).motion with frozen := none } := by
  have hpopped : s.popQueue = s.setTable { s.table with queue := [] } := by
    unfold State.popQueue
    rw [hqueue]
    rfl
  rw [State.endFreeze_frozen h, hqueue, drainList, drainList, hpopped]
  exact ⟨rfl, rfl, rfl, rfl, rfl⟩

/-- The entry of a sender with one waiting frame, after the freeze (R66, R124). -/
theorem State.endFreeze_entry (h : s.table.freeze = some x) (hg : g ∈ s.table.queue)
    (hone : ∀ g' ∈ s.table.queue, g'.sender = g.sender → g' = g) :
    (∀ b, g.body = .beacon b → (s.endFreeze.table.at g.sender).beacon = some (g.tag, b) ∧
      (s.endFreeze.table.at g.sender).lastKind = .beacon) ∧
    (∀ c, g.body = .car c → (s.endFreeze.table.at g.sender).car = some (g.tag, c) ∧
      (s.endFreeze.table.at g.sender).lastKind = .car ∧ (s.endFreeze.table.at g.sender).blendStart = x.view) := by
  obtain ⟨u, hu⟩ := drainList_applied (ta := x.view) hg hone s
  have hentry : s.endFreeze.table.at g.sender = u.appliedEntry g x.view := by
    rw [State.endFreeze_frozen h]
    exact hu
  rw [hentry]
  refine ⟨fun b hb => ?_, fun c hc => ?_⟩
  · obtain ⟨hbeacon, hkind, -⟩ := State.appliedEntry_beacon (s := u) hb x.view
    exact ⟨hbeacon, hkind⟩
  · rw [State.appliedEntry_car hc]
    exact ⟨rfl, rfl, rfl⟩

/-- The residual of a car record applied at the end of a freeze is formed at V (R122). -/
theorem State.endFreeze_residual {c : CarRecord} (h : s.table.freeze = some x) (hqueue : s.table.queue = [g])
    (hc : g.body = .car c) : (s.endFreeze.table.at g.sender).residual = s.newResidual g.sender g.tag c x.view := by
  have hentry : s.endFreeze.table.at g.sender = s.popQueue.appliedEntry g x.view := by
    rw [State.endFreeze_frozen h, hqueue]
    show (s.popQueue.applyFrame g x.view).table.at g.sender = _
    rw [State.applyFrame_table, Table.put_at_self]
  rw [hentry, State.appliedEntry_car hc]
  rfl

/-- THAW and the expiry of the freeze timer end the freeze, and differ in what they leave in the port alone (R66, R67). -/
theorem exec_endFreeze (h : s.table.freeze = some x)
    (hcomes : (i = .thaw ∧ s.hears i) ∨ (i = .freezeTimerExpiry ∧ s.inReset = false ∧ x.left = 0)) :
    ∃ p : Port, exec i s = .next (s.endFreeze.setPort p) ∧
      (i = .thaw → p = s.endFreeze.port.respond .ok [byteOf s.table.queue.length]) ∧
      (i = .freezeTimerExpiry → p = s.endFreeze.port.occur .freezeExpired none) ∧
      s.port.latch &&& p.latch = s.port.latch ∧ p.mask = s.port.mask := by
  have happlies := State.endFreeze_applies (s := s)
  obtain ⟨rfl, hhears⟩ | ⟨rfl, hreset, hleft⟩ := hcomes
  · refine ⟨_, exec_report (judge := State.thaw) (u := s.endFreeze) rfl hhears ?_, fun _ => rfl, nofun, happlies.port.latch,
      happlies.port.mask⟩
    unfold State.thaw
    rw [h]
  · have hcause : s.freezeOver = true := by simp [State.freezeOver, h, hleft]
    have hgrows := happlies.port.trans (Port.occur_grows s.endFreeze.port .freezeExpired none)
    exact ⟨_, exec_caused (i := .freezeTimerExpiry) rfl hreset hcause, nofun, fun _ => rfl, hgrows.latch, hgrows.mask⟩

/-- Settles O52: FREEZE by its equation, the two ends of a freeze by `State.endFreeze`, and the drain frame by frame. -/
theorem theFreezeFixesAndEnds : Obligations.TheFreezeFixesAndEnds := by
  refine ⟨fun s hhears hphase hfreeze => ?_, ⟨fun s hhears hfreeze => ?_, fun i s x hfreeze hcomes => ?_⟩,
    fun ta s => ⟨rfl, fun g rest => rfl⟩⟩
  · refine exec_report (judge := State.freeze) (u := s.beginFreeze) rfl hhears ?_
    simp [State.freeze, hphase, hfreeze]
  · refine exec_report (judge := State.thaw) rfl hhears ?_
    simp [State.thaw, hfreeze]
  · have hreset : s.inReset = false := by
      obtain ⟨-, hhears⟩ | ⟨-, hreset, -⟩ := hcomes
      · exact hhears.1
      · exact hreset
    obtain ⟨p, hexec, hthaw, hexpiry, hlatch, hmask⟩ := exec_endFreeze hfreeze hcomes
    have happlies := State.endFreeze_applies (s := s)
    obtain ⟨hqueue, hthawed, hfrozen, hmerges, hoverruns⟩ := State.endFreeze_table hfreeze
    refine ⟨_, hexec, ?_, fun g hone => ?_, hqueue, hthawed, hfrozen, fun st hnone => State.endFreeze_at hnone,
      fun g hg hone => State.endFreeze_entry hfreeze hg hone, fun hi => ?_, fun hi => ?_, hmerges, hoverruns, hlatch, hmask,
      happlies.pending, happlies.choices, happlies.inReset.trans hreset, happlies.straps, happlies.store, happlies.bus,
      happlies.link, happlies.clock, happlies.patterns⟩
    · intro drained ended
      have hended : s.endFreeze = ended := State.endFreeze_frozen hfreeze
      rw [← hended]
      exact ⟨fun hi => by rw [hthaw hi]; rfl, fun hi => by rw [hexpiry hi]; rfl⟩
    · obtain ⟨hentries, hsession, hstandings, hprox, hmotion⟩ := State.endFreeze_one hfreeze hone
      exact ⟨hentries, hsession, hstandings, hprox, hmotion, fun c hc => State.endFreeze_residual hfreeze hone hc⟩
    · rw [hthaw hi]
      rfl
    · rw [hexpiry hi]
      exact Port.occur_latched_self _ _ none

end Sys2Proof.Machine
end

section

/-! What the Host Port answers: the refusals, and the reports of the reading commands (R51, R68, R90, R105, R128 to R131,
R150, R169, R188, R199). -/

namespace Sys2Proof.Machine

variable {s t u : State} {i : Instr} {st : Station}

/-! ## Refusals -/

/-- Settles O13: each command refused, by what its gate tests. -/
theorem refusedCommandsChangeNothing : Obligations.RefusedCommandsChangeNothing := by
  intro i s hhears
  refine ⟨fun hphase hi => ?_, fun hphase hi => ?_, fun hphase hi => ?_, fun hphase hready hi => ?_, fun hphase hi => ?_,
    fun hphase hrace hi => ?_, fun hphase hi => ?_, fun hphase hfreeze hi => ?_, fun st hst hi => ?_,
    fun a b hab hi => ?_, fun a b hab hi => ?_, fun n l hphase hn hi => ?_⟩
  · obtain rfl | ⟨p, rfl⟩ | ⟨n, l, rfl⟩ | ⟨n, l, rfl⟩ := hi
    · exact exec_refuse (judge := State.join) rfl hhears (by simp [State.join, hphase])
    · exact exec_refuse (judge := State.configure p) rfl hhears (by simp [State.configure, hphase])
    · exact exec_refuse rfl hhears (State.setCourse_phase hphase)
    · exact exec_refuse (judge := State.setPattern n l) rfl hhears (by simp [State.setPattern, hphase])
  · subst hi
    exact exec_refuse (judge := State.newRace) rfl hhears (by simp [State.newRace, hphase])
  · obtain ⟨a, b, c, rfl⟩ := hi
    exact exec_refuse (judge := State.setOffer a b c) rfl hhears (by simp [State.setOffer, hphase])
  · obtain ⟨a, b, c, rfl⟩ := hi
    exact exec_refuse (judge := State.setOffer a b c) rfl hhears (by simp [State.setOffer, hphase, hready])
  · have houter : s.session.phase = .offline ∨ s.session.phase = .racing ∨ s.session.phase = .finished ∨
        s.session.phase = .results := by
      cases hp : s.session.phase <;> simp [hp, Phase.hasStandings] at hphase ⊢
    obtain rfl | rfl := hi
    · refine exec_refuse (judge := State.setReady) rfl hhears ?_
      obtain hp | hp | hp | hp := houter <;> simp [State.setReady, hp]
    · refine exec_refuse (judge := State.clearReady) rfl hhears ?_
      obtain hp | hp | hp | hp := houter <;> simp [State.clearReady, hp]
  · obtain ⟨p, rfl⟩ := hi
    refine exec_refuse (judge := State.postCar p) rfl hhears ?_
    cases hp : s.session.phase <;> simp [State.postCar, hp, Phase.inRace] at hphase hrace ⊢
  · subst hi
    exact exec_refuse (judge := State.freeze) rfl hhears (by simp [State.freeze, hphase])
  · subst hi
    obtain ⟨x, hx⟩ := Option.isSome_iff_exists.1 hfreeze
    exact exec_refuse (judge := State.freeze) rfl hhears (by simp [State.freeze, hphase, hx])
  · subst hi
    have hlarge : ¬ st.toNat < 16 := by omega
    exact exec_refuse (judge := State.readPeer st) rfl hhears (by simp [State.readPeer, hlarge])
  · subst hi
    refine exec_refuse (judge := State.readStandings a b) rfl hhears ?_
    have hrange : ¬ (1 ≤ a.toNat ∧ a.toNat ≤ 16 ∧ 1 ≤ b.toNat ∧ b.toNat ≤ 16) := by omega
    exact if_neg hrange
  · subst hi
    exact exec_refuse (judge := State.readLine a b) rfl hhears (if_pos hab)
  · subst hi
    exact exec_refuse rfl hhears (State.setCourse_operand hphase hn)

/-! ## Reports -/

theorem markByte_two (a b : Bool) : markByte [a, b] = (if a then 1#8 else 0#8) ||| (if b then 2#8 else 0#8) := by
  revert a b; decide

theorem markByte_four (a b c d : Bool) : markByte [a, b, c, d] = (if a then 1#8 else 0#8) ||| (if b then 2#8 else 0#8) |||
    (if c then 4#8 else 0#8) ||| (if d then 8#8 else 0#8) := by
  revert a b c d; decide

theorem markByte_five (a b c d e : Bool) : markByte [a, b, c, d, e] = (if a then 1#8 else 0#8) |||
    (if b then 2#8 else 0#8) ||| (if c then 4#8 else 0#8) ||| (if d then 8#8 else 0#8) ||| (if e then 16#8 else 0#8) := by
  revert a b c d e; decide

theorem markByte_one (a : Bool) : markByte [a] = if a then 1#8 else 0#8 := by
  revert a; decide

/-- The attention line, with RESET high, from the latch and the mask (R197). -/
theorem markByte_attention (h : s.inReset = false) :
    markByte [s.attention] = if s.port.latch &&& s.port.mask = 0 then 0#8 else 1#8 := by
  by_cases hlatch : s.port.latch &&& s.port.mask = 0 <;> simp [State.attention, h, hlatch, markByte]

/-- The elapsed time of READ CLOCK, by the phase (R51). -/
theorem State.elapsed_eq {elapsed : Option Time} (h :
    ((s.session.phase = .armed ∨ s.session.phase.inRace = true) ∧
        ∃ start, s.session.agreed = some start ∧ elapsed = some (s.now - start)) ∨
      (s.session.phase = .results ∧
        ∃ start ended, s.session.agreed = some start ∧ s.standings.overAt = some ended ∧ elapsed = some (ended - start)) ∨
      ((s.session.phase = .offline ∨ s.session.phase = .lobby ∨ s.session.phase = .proposing) ∧ elapsed = none)) :
    s.elapsed = elapsed := by
  unfold State.elapsed
  obtain ⟨hphase, start, hstart, rfl⟩ | ⟨hphase, start, ended, hstart, hended, rfl⟩ | ⟨hphase, rfl⟩ := h
  · cases hp : s.session.phase <;> simp [hp, Phase.inRace] at hphase <;> simp [hstart]
  · simp [hphase, hstart, hended]
  · obtain hp | hp | hp := hphase <;> simp [hp]

theorem ruleByte_none : ruleByte (ruleField none) = 0x80#8 := by decide

theorem ruleByte_some (r : Rule) : ruleByte (ruleField (some r)) =
    r.course.setWidth 8 ||| (r.lapCode.setWidth 8 <<< 3) ||| (r.options.setWidth 8 <<< 5) := by
  simp [ruleByte, ruleField, bitAt]

theorem byteOf_lapsOf (code : BitVec 2) :
    byteOf (lapsOf code) = if code = 0#2 then 1#8 else if code = 1#2 then 2#8 else if code = 2#2 then 3#8 else 5#8 := by
  revert code; decide

/-- Settles O11, each report by its bytes. -/
theorem reportsAnswerTheFields : Obligations.ReportsAnswerTheFields := by
  refine ⟨fun s hhears => ?_, fun s elapsed hhears helapsed => ?_, fun s hhears => ?_, fun s hhears => ?_⟩
  · rw [exec_report (judge := fun s => s.report s.statusBytes) rfl hhears rfl, State.statusBytes, markByte_two, markByte_one,
      markByte_attention hhears.1]
    cases s.table.freeze <;> rfl
  · rw [← State.elapsed_eq helapsed, exec_report (judge := fun s => s.report s.clockBytes) rfl hhears rfl,
      State.clockBytes, markByte_one, List.append_assoc _ [_]]
    cases s.elapsed <;> rfl
  · intro held
    have hheld : s.heldOptions = held := by
      show _ = if s.session.held then _ else _
      unfold State.heldOptions
      cases s.session.held <;> cases s.session.rule <;> rfl
    rw [exec_report (judge := fun s => s.report s.proxBytes) rfl hhears rfl, State.proxBytes, markByte_four, hheld]
    simp only [State.sweepRuns, Bool.and_eq_true, beq_iff_eq]
    rfl
  · rw [exec_report (judge := fun s => s.report s.lobbyBytes) rfl hhears rfl, State.lobbyBytes, markByte_five]
    cases hrule : s.session.rule with
    | none =>
      have hzero : be3 0#24 = [0#8, 0#8, 0#8] := rfl
      simp [State.laps, State.courseLength, hrule, Offer.bytes, ruleByte_none, hzero, byteOf]
    | some r => simp [State.laps, State.courseLength, hrule, Offer.bytes, ruleByte_some, byteOf_lapsOf]

end Sys2Proof.Machine
end

section

/-! The lengths and the fields of the reading commands (R68, R105, R128 to R131, R169, R188). -/

namespace Sys2Proof.Machine

variable {s t u : State} {i : Instr} {st : Station}

/-! ## Lengths -/

theorem be2_length (x : BitVec 16) : (be2 x).length = 2 := rfl
theorem be3_length (x : BitVec 24) : (be3 x).length = 3 := rfl
theorem be4_length (x : BitVec 32) : (be4 x).length = 4 := rfl
theorem be4o_length (x : Option (BitVec 32)) : (be4o x).length = 4 := rfl

/-- Pieces of one length add up. -/
theorem length_flatMap_of_length {α β : Type} {f : α → List β} {k : Nat} (h : ∀ x, (f x).length = k) (l : List α) :
    (l.flatMap f).length = k * l.length := by
  simp [List.length_flatMap, h, Nat.mul_comm]

theorem State.statusBytes_length : s.statusBytes.length = 22 := by
  simp [State.statusBytes, be2_length, be4o_length]

theorem State.lobbyBytes_length : s.lobbyBytes.length = 22 := by
  simp [State.lobbyBytes, Offer.bytes, be2_length, be3_length]

theorem State.clockBytes_length : s.clockBytes.length = 12 := by
  simp [State.clockBytes, be2_length, be4_length, be4o_length]

theorem State.countdownBytes_length : s.countdownBytes.length = 16 + 5 * s.session.recorded.length := by
  have heach : ∀ r : Station × Time, (byteOf r.1.val :: be4 r.2).length = 5 := fun _ => rfl
  simp [State.countdownBytes, be2_length, be4_length, be4o_length, length_flatMap_of_length heach]
  omega

theorem beaconReport_length (x : Option (Byte × Beacon)) : (beaconReport x).length = 14 := by
  cases x <;> simp [beaconReport, beaconHead, be2_length, be4o_length]

theorem carReport_length (x : Option (Byte × CarRecord)) : (carReport x).length = 18 := by
  cases x <;> simp [carReport, carHead, be2_length, be3_length, be4_length, be4o_length]

theorem State.peerBytes_length : (s.peerBytes st).length = 53 := by
  simp [State.peerBytes, be4_length, be4o_length, beaconReport_length, carReport_length]

theorem CarLine.bytes_length (x : CarLine) : x.bytes.length = 10 := by
  simp [CarLine.bytes, be2_length, be3_length]

theorem State.carsBytes_length : s.carsBytes.length = 11 + 10 * s.carLines.length := by
  simp [State.carsBytes, be3_length, be4_length, length_flatMap_of_length CarLine.bytes_length]
  omega

theorem State.proxBytes_length : s.proxBytes.length = 50 := by
  have heach : ∀ x : ProxEntry, (x.state.code :: be2 (BitVec.ofInt 16 x.closing)).length = 3 := fun _ => rfl
  simp [State.proxBytes, length_flatMap_of_length heach]

theorem Standing.bytes_length (x : Standing) : x.bytes.length = 29 := by
  simp [Standing.bytes, be4_length, be4o_length]

theorem State.standingsBytes_length (start count : Nat) : (s.standingsBytes start count).length =
    13 + 29 * min count (s.standingsList.length - (start - 1)) := by
  simp [State.standingsBytes, be4_length, length_flatMap_of_length Standing.bytes_length]
  omega

/-- Every reading command answers OK with bytes of its length (R188). -/
theorem exec_reads {n : Nat} (hhears : s.hears i)
    (hi : (i = .readStatus ∧ n = 22) ∨ (i = .readLobby ∧ n = 22) ∨
      (i = .readCountdown ∧ n = 16 + 5 * s.session.recorded.length) ∨ (i = .readClock ∧ n = 12) ∨
      (∃ st : Byte, st.toNat ≤ 15 ∧ i = .readPeer st ∧ n = 53) ∨
      (i = .readCars ∧ n = 11 + 10 * s.carLines.length) ∨ (i = .readProx ∧ n = 50) ∨
      (∃ start count : Byte, 1 ≤ start.toNat ∧ start.toNat ≤ 16 ∧ 1 ≤ count.toNat ∧ count.toNat ≤ 16 ∧
        i = .readStandings start count ∧
        n = 13 + 29 * min count.toNat (s.standingsList.length - (start.toNat - 1)))) :
    ∃ bytes, bytes.length = n ∧ exec i s = .next (s.answering .ok bytes) := by
  obtain ⟨rfl, rfl⟩ | ⟨rfl, rfl⟩ | ⟨rfl, rfl⟩ | ⟨rfl, rfl⟩ | ⟨st, hst, rfl, rfl⟩ | ⟨rfl, rfl⟩ | ⟨rfl, rfl⟩ |
    ⟨start, count, hlow, hhigh, hsome, hmost, rfl, rfl⟩ := hi
  · exact ⟨_, State.statusBytes_length, exec_report (judge := fun s => s.report s.statusBytes) rfl hhears rfl⟩
  · exact ⟨_, State.lobbyBytes_length, exec_report (judge := fun s => s.report s.lobbyBytes) rfl hhears rfl⟩
  · exact ⟨_, State.countdownBytes_length, exec_report (judge := fun s => s.report s.countdownBytes) rfl hhears rfl⟩
  · exact ⟨_, State.clockBytes_length, exec_report (judge := fun s => s.report s.clockBytes) rfl hhears rfl⟩
  · have hlt : st.toNat < 16 := by omega
    exact ⟨_, State.peerBytes_length, exec_report (judge := State.readPeer st) rfl hhears (dif_pos hlt)⟩
  · exact ⟨_, State.carsBytes_length, exec_report (judge := fun s => s.report s.carsBytes) rfl hhears rfl⟩
  · exact ⟨_, State.proxBytes_length, exec_report (judge := fun s => s.report s.proxBytes) rfl hhears rfl⟩
  · exact ⟨_, State.standingsBytes_length _ _,
      exec_report (judge := State.readStandings start count) rfl hhears (if_pos ⟨hlow, hhigh, hsome, hmost⟩)⟩

/-! ## Fields -/

/-- The proposals as READ COUNTDOWN lists them (R105). -/
theorem Session.recorded_bytes (x : Session) :
    ((stations.filter fun st => member (x.roster.getD 0) st).filterMap fun st =>
      (x.proposalOf st).map fun p => BitVec.ofNat 8 st.val :: be4 p) =
    x.recorded.map fun r => byteOf r.1.val :: be4 r.2 := by
  unfold Session.recorded
  rw [List.map_filterMap]
  congr 1
  funext st
  cases x.proposalOf st <;> rfl

theorem exec_readCountdown (hhears : s.hears .readCountdown) :
    exec .readCountdown s = .next (s.answering .ok s.countdownBytes) :=
  exec_report (judge := fun s => s.report s.countdownBytes) rfl hhears rfl

theorem State.carLines_carried (h : s.session.phase = .offline ∨ s.session.phase = .lobby ∨ s.session.phase = .proposing) :
    s.carLines = s.carriedLines := by
  unfold State.carLines
  obtain hp | hp | hp := h <;> rw [hp]

theorem State.carLines_raced {listed : List Station}
    (h : (s.session.phase = .armed ∧ listed = stations.filter fun st => member (s.session.roster.getD 0) st) ∨
      (s.session.phase.hasStandings = true ∧ listed = stations.filter fun st => (s.standings.at st).isSome)) :
    s.carLines = listed.map s.raceLine := by
  unfold State.carLines
  obtain ⟨hp, rfl⟩ | ⟨hp, rfl⟩ := h
  · rw [hp]; rfl
  · cases hphase : s.session.phase <;> simp [hphase, Phase.hasStandings] at hp <;> rfl

/-- The evaluation time and the own copy of the host's reads (R128). -/
theorem State.view_eq {view : Time} {copy : Option CarRecord} (h : match s.table.freeze with
      | some f => view = f.view ∧ copy = s.motion.frozen
      | none => view = s.now ∧ copy = s.motion.live) : s.viewTime = view ∧ s.viewCopy = copy := by
  unfold State.viewTime State.viewCopy
  cases hfreeze : s.table.freeze with
  | none => rw [hfreeze] at h; exact ⟨h.1.symm, h.2.symm⟩
  | some f => rw [hfreeze] at h; exact ⟨h.1.symm, h.2.symm⟩

/-- A car as carried, in READ CARS (R131). -/
theorem State.carriedLine_bytes (c : CarRecord) : (s.carriedLine st c).bytes =
    [BitVec.ofNat 8 st.val, 0#8, c.lap] ++ be3 c.position ++ [c.lateral] ++ be2 c.speed ++
      [(if (s.store.horizon : Int) < tdiff s.viewTime c.recordTime then 1#8 else 0#8) |||
        (if c.inPit then 2#8 else 0#8) ||| (if c.offTrack then 4#8 else 0#8) ||| (if c.finish.isSome then 8#8 else 0#8)] := by
  simp [State.carriedLine, CarLine.bytes, markByte_five, CarRecord.finished, byteOf]

/-- A car of the race, in READ CARS (R130). -/
theorem State.raceLine_bytes : (s.raceLine st).bytes =
    [BitVec.ofNat 8 st.val,
      (match (s.standings.at st).map Starter.status with
        | some r => r.code
        | none => 0),
      BitVec.ofNat 8 ((s.present s.viewCopy st s.viewTime).distance / s.courseLength)] ++
      be3 (BitVec.ofNat 24 ((s.present s.viewCopy st s.viewTime).distance % s.courseLength)) ++
      [(s.present s.viewCopy st s.viewTime).lateral] ++
      be2 (BitVec.ofInt 16 (s.present s.viewCopy st s.viewTime).speed) ++
      [(if (s.present s.viewCopy st s.viewTime).stale then 1#8 else 0#8) |||
        (if (s.present s.viewCopy st s.viewTime).inPit then 2#8 else 0#8) |||
        (if (s.present s.viewCopy st s.viewTime).offTrack then 4#8 else 0#8) |||
        (if (s.present s.viewCopy st s.viewTime).finished then 8#8 else 0#8) |||
        (if (s.present s.viewCopy st s.viewTime).noRecord then 16#8 else 0#8)] := by
  simp only [State.raceLine, CarLine.bytes, markByte_five]
  rfl

/-- The list READ STANDINGS reads, and its evaluation time (R169). -/
theorem State.standings_eq {view : Time} {list : List Standing}
    (h : (s.session.phase.inRace = true ∧ view = s.viewTime ∧ list = s.formList s.viewCopy s.viewTime) ∨
      (s.session.phase = .results ∧ s.standings.overAt = some view ∧ s.standings.final = some list) ∨
      (s.session.phase.hasStandings = false ∧ view = 0 ∧ list = [])) :
    s.standingsTime = view ∧ s.standingsList = list := by
  unfold State.standingsTime State.standingsList
  obtain ⟨hp, rfl, rfl⟩ | ⟨hp, hover, hfinal⟩ | ⟨hp, rfl, rfl⟩ := h
  · cases hphase : s.session.phase <;> simp [hphase, Phase.inRace] at hp <;> exact ⟨rfl, rfl⟩
  · simp [hp, hover, hfinal]
  · cases hphase : s.session.phase <;> simp [hphase, Phase.hasStandings] at hp <;> exact ⟨rfl, rfl⟩

/-- An entry of READ STANDINGS (R169). -/
theorem Standing.bytes_eq (x : Standing) : x.bytes =
    [BitVec.ofNat 8 x.place, BitVec.ofNat 8 x.station.val, x.status.code, BitVec.ofNat 8 x.lap] ++
      be4 (BitVec.ofNat 32 x.distance) ++
      [(if x.elapsed.isSome then 1#8 else 0#8) ||| (if x.finish.isSome then 2#8 else 0#8) |||
        (if x.gapT.isSome then 4#8 else 0#8) ||| (if x.gapD.isSome then 8#8 else 0#8) |||
        (if x.delta.isSome then 16#8 else 0#8)] ++
      be4 (BitVec.ofNat 32 (x.elapsed.getD 0)) ++ be4 (x.finish.getD 0) ++
      be4 (BitVec.ofNat 32 (x.gapT.getD 0)) ++ be4 (BitVec.ofNat 32 (x.gapD.getD 0)) ++
      be4 (BitVec.ofInt 32 (x.delta.getD 0)) := by
  rw [Standing.bytes, markByte_five]
  rfl

/-- Settles O12: the lengths, and the fields of the four longer reports. -/
theorem readsChangeNothing : Obligations.ReadsChangeNothing := by
  refine ⟨fun i s n hhears hi => exec_reads hhears hi, fun s hhears => ?_, fun s st hhears => ?_,
    fun s header view copy hhears hview hheader => ⟨fun hphase => ?_, fun listed hlisted => ?_⟩,
    fun s start count view list hhears hlow hhigh hsome hmost hlist => ?_⟩
  · intro proposals
    have hproposals : proposals = s.session.recorded.map fun r => byteOf r.1.val :: be4 r.2 := Session.recorded_bytes _
    rw [exec_readCountdown hhears, hproposals, ← List.flatMap_def, List.length_map, State.countdownBytes, markByte_four]
    rcases hlast : s.session.lastAbort with - | ⟨cause, - | st⟩
    · rfl
    · cases cause <;> rfl
    · cases cause <;> rfl
  · dsimp only
    have hlt : (BitVec.ofNat 8 st.val).toNat < 16 := by rw [BitVec.toNat_ofNat]; omega
    have hst : (⟨(BitVec.ofNat 8 st.val).toNat, hlt⟩ : Station) = st := by
      apply Fin.ext
      show (BitVec.ofNat 8 st.val).toNat = st.val
      rw [BitVec.toNat_ofNat]
      omega
    have hpeer : State.readPeer (BitVec.ofNat 8 st.val) s = s.report (s.peerBytes st) := by
      unfold State.readPeer
      rw [dif_pos hlt, hst]
    rw [exec_report (judge := State.readPeer _) rfl hhears hpeer, State.peerBytes, markByte_five]
    rcases (s.table.at st).beacon with - | ⟨tag, b⟩ <;> rcases (s.table.at st).car with - | ⟨tag', c⟩ <;>
      simp [tagOf, beaconReport, carReport, queued, byteOf, be4o, List.replicate_succ]
  · intro cars
    obtain ⟨hview, hcopy⟩ := State.view_eq (s := s) (by cases hfreeze : s.table.freeze <;> rw [hfreeze] at hview <;> exact hview)
    have hcars : cars = s.carLines.map CarLine.bytes := by
      rw [State.carLines_carried hphase, State.carriedLines, List.map_filterMap]
      show List.filterMap _ _ = _
      congr 1
      funext st
      split
      · cases (s.table.at st).car with
        | none => rfl
        | some r =>
          show some _ = some (s.carriedLine st r.2).bytes
          rw [State.carriedLine_bytes, hview]
      · rfl
    rw [exec_report (judge := fun s => s.report s.carsBytes) rfl hhears rfl, hcars, ← List.flatMap_def, List.length_map, hheader,
      State.carsBytes, hview, markByte_one]
    rfl
  · obtain ⟨hview, hcopy⟩ := State.view_eq (s := s) (by cases hfreeze : s.table.freeze <;> rw [hfreeze] at hview <;> exact hview)
    have hcars := State.carLines_raced hlisted
    rw [exec_report (judge := fun s => s.report s.carsBytes) rfl hhears rfl, hheader, State.carsBytes, hview, markByte_one, hcars,
      List.length_map, List.flatMap_map]
    simp only [State.raceLine_bytes, hview, hcopy]
    have hstatus : ∀ st, (match (s.standings.at st).map Starter.status with
        | some r => r.code
        | none => 0) = match s.standings.at st with
        | some r => r.status.code
        | none => 0 := fun st => by cases s.standings.at st <;> rfl
    simp only [hstatus]
    rfl
  · intro shown
    obtain ⟨hview, hstandings⟩ := State.standings_eq hlist
    rw [exec_report (judge := State.readStandings start count) rfl hhears (if_pos ⟨hlow, hhigh, hsome, hmost⟩),
      State.standingsBytes, hview, hstandings, markByte_two, funext Standing.bytes_eq]
    simp only [Bool.and_eq_true, beq_iff_eq]
    cases s.standings.cause <;> cases s.session.phase <;> rfl

end Sys2Proof.Machine
end

section

/-! The commands as bytes: a command's bytes spell it again, and bytes that spell a command are its own (R172, R187, R191). -/

namespace Sys2Proof.Machine

variable {i : Instr}

/-! ## Fields and their bytes -/

/-- The low byte of two pieces is the second, and the bytes above are those of the first. -/
theorem extractLsb'_append_byte {w : Nat} (x : BitVec w) (b : Byte) :
    (x ++ b).extractLsb' 0 8 = b ∧ ∀ k, (x ++ b).extractLsb' (8 + k) 8 = x.extractLsb' k 8 := by
  constructor
  · ext i hi
    simp [BitVec.getLsbD_append, hi]
  · intro k
    ext i hi
    have hhigh : ¬ 8 + k + i < 8 := by omega
    have hsub : 8 + k + i - 8 = k + i := by omega
    simp [BitVec.getLsbD_append, hhigh, hsub]

theorem be2_of2 (a b : Byte) : be2 (of2 a b) = [a, b] := by
  obtain ⟨hlow, hhigh⟩ := extractLsb'_append_byte a b
  simp only [be2, of2, hlow, hhigh 0]
  simp

theorem be3_of3 (a b c : Byte) : be3 (of3 a b c) = [a, b, c] := by
  obtain ⟨hlow, hhigh⟩ := extractLsb'_append_byte (a ++ b) c
  obtain ⟨hlow', hhigh'⟩ := extractLsb'_append_byte a b
  simp only [be3, of3, hlow, hhigh 0, hhigh 8, hlow', hhigh' 0]
  simp

theorem be4_of4 (a b c d : Byte) : be4 (of4 a b c d) = [a, b, c, d] := by
  obtain ⟨hlow, hhigh⟩ := extractLsb'_append_byte (a ++ b ++ c) d
  obtain ⟨hlow', hhigh'⟩ := extractLsb'_append_byte (a ++ b) c
  obtain ⟨hlow'', hhigh''⟩ := extractLsb'_append_byte a b
  simp only [be4, of4, hlow, hhigh 0, hhigh 8, hhigh 16, hlow', hhigh' 0, hhigh' 8, hlow'', hhigh'' 0]
  simp

/-! ## The operands of each command -/

theorem readParameters_bytes (p : Parameters) : readParameters (parameterBytes p) = some p := by
  simp [parameterBytes, be2, be4, readParameters, of2_be2, of4_be4]

/-- Thirty-eight bytes are the operand bytes of some parameters (R192). -/
theorem parameterBytes_read {l : List Byte} {p : Parameters} (h : readParameters l = some p) : parameterBytes p = l := by
  unfold readParameters at h
  split at h
  · cases h
    simp [parameterBytes, be2_of2, be4_of4]
  · cases h

theorem readParameters_isSome {l : List Byte} (h : l.length = 38) : (readParameters l).isSome = true := by
  iterate 38 (obtain - | ⟨_, l⟩ := l; · cases h)
  obtain - | ⟨_, l⟩ := l
  · rfl
  · cases h

theorem readSteps_bytes (steps : List (Byte × Byte)) : readSteps (stepBytes steps) = some steps := by
  induction steps with
  | nil => rfl
  | cons x xs ih => simp [stepBytes, readSteps, ih]

theorem stepBytes_read : ∀ {l : List Byte} {steps : List (Byte × Byte)}, readSteps l = some steps → stepBytes steps = l
  | [], _, h => by cases h; rfl
  | [_], _, h => by cases h
  | code :: arg :: rest, steps, h => by
    rw [readSteps, Option.map_eq_some_iff] at h
    obtain ⟨steps', hrest, rfl⟩ := h
    rw [stepBytes, stepBytes_read hrest]

/-- An even number of step bytes reads as half as many steps (R172). -/
theorem readSteps_of_length (n : Nat) : ∀ {l : List Byte}, l.length = 2 * n →
    ∃ steps, readSteps l = some steps ∧ steps.length = n := by
  induction n with
  | zero =>
    intro l h
    obtain rfl : l = [] := List.length_eq_zero_iff.1 (by omega)
    exact ⟨[], rfl, rfl⟩
  | succ n ih =>
    intro l h
    obtain - | ⟨code, - | ⟨arg, rest⟩⟩ := l
    · cases h
    · simp at h; omega
    · obtain ⟨steps, hsteps, hlength⟩ := ih (l := rest) (by simp at h; omega)
      exact ⟨(code, arg) :: steps, by simp [readSteps, hsteps], by simp [hlength]⟩

/-! ## Commands -/

theorem byte_eq_of_toNat {code : Byte} {n : Nat} (h : code.toNat = n) : code = BitVec.ofNat 8 n := by
  rw [← h]; simp

/-- A byte that names no command is UNKNOWN COMMAND's (R191). -/
theorem plainCommand_unknown {code : Byte} (h : namesCommand code = false) : plainCommand code = some (.unknownCommand code) := by
  unfold plainCommand
  split
  case h_19 => simp [h]
  all_goals
    next hcode =>
      obtain rfl := byte_eq_of_toNat hcode
      exact absurd h (by decide)

/-- A byte that alone spells a command is that command's (R187, R191). -/
theorem plainCommand_read {code : Byte} (h : plainCommand code = some i) :
    i.wellFormed = true ∧ commandBytes i = some [code] := by
  unfold plainCommand at h
  split at h
  case h_19 =>
    split at h
    · cases h
    · next hname =>
      cases h
      exact ⟨by simpa [Instr.wellFormed] using hname, rfl⟩
  all_goals
    next hcode =>
      obtain rfl := byte_eq_of_toNat hcode
      cases h
      exact ⟨rfl, rfl⟩

/-- A command's bytes spell it (R172, R187, R191). -/
theorem decodeCommand_bytes {bs : List Byte} (hwell : i.wellFormed = true) (h : commandBytes i = some bs) :
    decodeCommand bs = some i := by
  cases i <;> cases h
  case unknownCommand code => exact plainCommand_unknown (by simpa [Instr.wellFormed] using hwell)
  case setEventMask mask => exact congrArg (fun x => some (Instr.setEventMask x)) (of3_be3 mask)
  case configure p => exact congrArg (Option.map Instr.configure) (readParameters_bytes p)
  case setCourse index length => exact congrArg (fun x => some (Instr.setCourse index x)) (of4_be4 length)
  case setPattern index steps =>
    have hcount : steps.length ≤ 255 := by simpa [Instr.wellFormed] using hwell
    have hbyte : (byteOf steps.length).toNat = steps.length := by
      simp only [byteOf, BitVec.toNat_ofNat]; omega
    show readPattern index (byteOf steps.length) (stepBytes steps) = _
    simp [readPattern, readSteps_bytes, hbyte]
  case postCar p =>
    simp [carPostBytes, be2, be3, decodeCommand, of3_be3, of2_be2]
  all_goals rfl

/-- The bytes of SET PATTERN that spell it (R172). -/
theorem readPattern_read {index count : Byte} {bytes : List Byte} (h : readPattern index count bytes = some i) :
    i.wellFormed = true ∧ commandBytes i = some (0x0A :: index :: count :: bytes) := by
  unfold readPattern at h
  split at h
  · next steps hsteps =>
    split at h
    · next hcount =>
      cases h
      have hlt := count.isLt
      refine ⟨by simp [Instr.wellFormed]; omega, ?_⟩
      rw [commandBytes, stepBytes_read hsteps, hcount, byteOf, BitVec.ofNat_toNat, BitVec.setWidth_eq]
    · cases h
  · cases h

/-- Bytes that spell a command are that command's, and it is well formed (R172, R187, R191). -/
theorem decodeCommand_read {bs : List Byte} (h : decodeCommand bs = some i) : i.wellFormed = true ∧ commandBytes i = some bs := by
  unfold decodeCommand at h
  split at h
  · cases h
  · exact plainCommand_read h
  · split at h
    next hcode _ =>
      obtain rfl := byte_eq_of_toNat hcode
      cases h
      exact ⟨rfl, congrArg (fun l => some ((0x03 : Byte) :: l)) (be3_of3 _ _ _)⟩
    next operands hcode _ =>
      obtain rfl := byte_eq_of_toNat hcode
      obtain ⟨p, hp, rfl⟩ := Option.map_eq_some_iff.1 h
      exact ⟨rfl, congrArg (fun l => some ((0x08 : Byte) :: l)) (parameterBytes_read hp)⟩
    next index _ _ _ _ hcode _ =>
      obtain rfl := byte_eq_of_toNat hcode
      cases h
      exact ⟨rfl, congrArg (fun l => some ((0x09 : Byte) :: index :: l)) (be4_of4 _ _ _ _)⟩
    next index count steps hcode _ =>
      obtain rfl := byte_eq_of_toNat hcode
      exact readPattern_read h
    next hcode _ =>
      obtain rfl := byte_eq_of_toNat hcode
      cases h
      exact ⟨rfl, rfl⟩
    next hcode _ =>
      obtain rfl := byte_eq_of_toNat hcode
      cases h
      exact ⟨rfl, rfl⟩
    next hcode _ =>
      obtain rfl := byte_eq_of_toNat hcode
      cases h
      exact ⟨rfl, by simp [commandBytes, carPostBytes, be3_of3, be2_of2]⟩
    next hcode _ =>
      obtain rfl := byte_eq_of_toNat hcode
      cases h
      exact ⟨rfl, rfl⟩
    next hcode _ =>
      obtain rfl := byte_eq_of_toNat hcode
      cases h
      exact ⟨rfl, rfl⟩
    next => cases h

/-- A code without operand bytes spells a command alone (R187). -/
theorem plainCommand_isSome : ∀ code : Byte, operandLength code [] = 0 → (plainCommand code).isSome = true := by
  decide

/-- A command is spelled as soon as its operand bytes are as many as its code calls for (R172, R187). -/
theorem decodeCommand_isSome {code : Byte} {operands : List Byte} (h : operands.length = operandLength code operands) :
    (decodeCommand (code :: operands)).isSome = true := by
  obtain - | ⟨x, xs⟩ := operands
  · exact plainCommand_isSome code h.symm
  · unfold operandLength at h
    split at h
    · next hcode =>
      subst hcode
      show (Option.map _ _).isSome = true
      rw [Option.isSome_map]
      exact readParameters_isSome h
    split at h
    · next hcode =>
      subst hcode
      iterate 11 (obtain - | ⟨_, xs⟩ := xs; · cases h)
      obtain - | ⟨_, xs⟩ := xs
      · rfl
      · cases h
    split at h
    · next hcode =>
      subst hcode
      iterate 4 (obtain - | ⟨_, xs⟩ := xs; · cases h)
      obtain - | ⟨_, xs⟩ := xs
      · rfl
      · cases h
    split at h
    · next hcode =>
      subst hcode
      obtain - | ⟨count, steps⟩ := xs
      · simp at h
      · obtain ⟨list, hlist, hlength⟩ := readSteps_of_length count.toNat (l := steps) (by simp at h; omega)
        show (readPattern x count steps).isSome = true
        simp [readPattern, hlist, hlength]
    split at h
    · next hcode =>
      iterate 2 (obtain - | ⟨_, xs⟩ := xs; · cases h)
      obtain - | ⟨_, xs⟩ := xs
      · obtain rfl | rfl := hcode <;> rfl
      · cases h
    split at h
    · next hcode =>
      obtain - | ⟨_, - | ⟨_, xs⟩⟩ := xs
      · cases h
      · obtain rfl | rfl := hcode <;> rfl
      · cases h
    split at h
    · next hcode =>
      subst hcode
      obtain - | ⟨_, xs⟩ := xs
      · rfl
      · cases h
    cases h

/-- A command's operand bytes are as many as its code calls for (R187, R188). -/
theorem operandLength_of_commandBytes {code : Byte} {operands : List Byte} (hwell : i.wellFormed = true)
    (h : commandBytes i = some (code :: operands)) : operands.length = operandLength code operands := by
  cases i
  case configure p => exact Laws.HostBytes.configure p hwell _ _ h
  case setPattern index steps => exact Laws.HostBytes.setPattern index steps hwell _ _ h
  case unknownCommand code => exact Laws.HostBytes.unknownCommand code hwell _ _ h
  all_goals cases h <;> rfl

/-- Settles O53. -/
theorem hostBytesSpellTheCommand : Obligations.HostBytesSpellTheCommand := by
  refine ⟨fun i bs hwell h => decodeCommand_bytes hwell h, fun i bs h => decodeCommand_read h,
    fun code operands => ⟨fun h => ?_, decodeCommand_isSome⟩⟩
  obtain ⟨i, hi⟩ := Option.isSome_iff_exists.1 h
  obtain ⟨hwell, hbytes⟩ := decodeCommand_read hi
  exact operandLength_of_commandBytes hwell hbytes

end Sys2Proof.Machine
end

section

/-! The transaction of the Host Port byte by byte: what opens, moves and closes it, and that no other event does (R172, R187 to
R191). -/

namespace Sys2Proof.Machine

variable {s t u : State} {i : Instr} {p q : Port} {x : Byte}

/-! ## Events that leave the transaction -/

/-- A port whose transaction stands where it stood, HDI apart. -/
structure Port.SameTransaction (p q : Port) : Prop where
  state : q.state = p.state
  buffer : q.buffer = p.buffer
  counted : q.counted = p.counted
  response : q.response = p.response

theorem Port.SameTransaction.of_eq (h : q = p) : p.SameTransaction q := by
  subst h; exact ⟨rfl, rfl, rfl, rfl⟩

theorem Port.Grows.sameTransaction (h : p.Grows q) : p.SameTransaction q := ⟨h.state, h.buffer, h.counted, h.response⟩

/-- The events that open, end or reset a transaction (R187, R189, R190, R200, R202). -/
def movesTransaction : Instr → Bool
  | .transactionBegin | .truncated _ | .transactionEnd | .responseEndedEarly | .softResetActs => true
  | _ => false

theorem movesTransaction_eq_false (hbegin : i ≠ .transactionBegin) (htruncated : ∀ n, i ≠ .truncated n)
    (hend : i ≠ .transactionEnd) (hearly : i ≠ .responseEndedEarly) (hacts : i ≠ .softResetActs) :
    movesTransaction i = false := by
  cases i
  case transactionBegin => exact absurd rfl hbegin
  case truncated n => exact absurd rfl (htruncated n)
  case transactionEnd => exact absurd rfl hend
  case responseEndedEarly => exact absurd rfl hearly
  case softResetActs => exact absurd rfl hacts
  all_goals rfl

/-- No other event of the part moves the transaction, so that it may fall between two bytes (R187). -/
theorem eventOf_transaction {cause : State → Bool} {act : State → State} (h : eventOf i = some (cause, act))
    (hbytes : commandBytes i = none) (hmoves : movesTransaction i = false) :
    s.port.SameTransaction (act s).port ∧ (i ≠ .debtPayment → (act s).port.hdi = s.port.hdi) := by
  have same : ∀ {p : Port}, p = s.port → s.port.SameTransaction p ∧ (i ≠ .debtPayment → p.hdi = s.port.hdi) :=
    fun hp => ⟨.of_eq hp, fun _ => by rw [hp]⟩
  have grows : ∀ {p : Port}, s.port.Grows p → s.port.SameTransaction p ∧ (i ≠ .debtPayment → p.hdi = s.port.hdi) :=
    fun hp => ⟨hp.sameTransaction, fun _ => hp.hdi⟩
  cases i <;> cases h
  case unknownCommand => cases hbytes
  case transactionBegin | truncated | transactionEnd | responseEndedEarly | softResetActs => cases hmoves
  case lineActivity | startMark => exact same rfl
  case readEventsEnd =>
    have hend : s.port.SameTransaction s.port.endReadEvents ∧ s.port.endReadEvents.hdi = s.port.hdi := by
      unfold Port.endReadEvents
      split <;> exact ⟨⟨rfl, rfl, rfl, rfl⟩, rfl⟩
    exact ⟨hend.1, fun _ => hend.2⟩
  case framePeriodExpiry => exact same State.periodExpiry_port
  case deferralSlot => exact same State.countSlot_port
  case txSuccess echo => exact same (State.succeed_port echo)
  case lineIdle run => exact grows (State.goIdle_grows run)
  case collision index echo => exact grows (State.collide_grows index echo)
  case windowExpiry => exact grows State.windowEvaluation_keeps.port
  case debtPayment =>
    refine ⟨?_, fun hne => absurd rfl hne⟩
    show s.port.SameTransaction s.port.tick
    rw [Port.tick_moves]
    exact ⟨rfl, rfl, rfl, rfl⟩
  case freezeTimerExpiry => exact grows (State.endFreeze_applies.trans (State.signal_quiet _).toApplies).port
  case abortHoldExpiry => exact grows ((State.setSession_quiet _).trans State.reevaluate_quiet).port
  case sweepStep => exact grows State.sweep_quiet.port
  case startInstant => exact grows State.start_quiet.port
  case finishDeadline | raceLimit => exact grows State.checkRaceEnd_quiet.port

/-! ## The bytes held -/

theorem Port.TransactionOk.of_closed (hready : p.ready = false) (hcounted : p.counted = 0) (hbuffer : p.buffer = []) :
    p.TransactionOk where
  stored := by simp [hbuffer, hcounted]
  closed _ := hcounted
  command _ := hcounted
  operands h := by simp [Port.ready, h] at hready

theorem Port.TransactionOk.of_same (h : p.TransactionOk) (hsame : p.SameTransaction q) : q.TransactionOk := by
  obtain ⟨hstate, hbuffer, hcounted, -⟩ := hsame
  have hready : q.ready = p.ready := by simp [Port.ready, hstate]
  have hbytes : q.bytes = p.bytes := by simp [Port.bytes, hbuffer, hcounted]
  exact ⟨by rw [hbuffer, hcounted]; exact h.stored, fun k => hcounted.trans (h.closed (hready ▸ k)),
    fun k => hcounted.trans (h.command (hstate ▸ k)), fun k => by rw [hbytes]; exact h.operands (hstate ▸ k)⟩

/-- A transaction that is over holds no byte (R187, R190). -/
theorem Port.endTransaction_ok (p : Port) : p.endTransaction.TransactionOk := .of_closed rfl rfl rfl

theorem State.raiseSelect_ok : s.raiseSelect.port.TransactionOk := by
  unfold State.raiseSelect
  split
  · exact .of_closed rfl rfl rfl
  · exact Port.endTransaction_ok _

theorem State.release_ok (straps : Straps) : (s.release straps).port.TransactionOk := by
  have hpower : (State.powerOn straps s.pending s.choices).port.TransactionOk := .of_closed rfl rfl rfl
  unfold State.release
  dsimp only
  split
  · exact hpower.of_same State.joinLobby_grows.sameTransaction
  · exact hpower

/-- Every command keeps the bytes held as R187 calls for. -/
theorem exec_transactionOk (h : exec i s = .next t) (hok : s.port.TransactionOk) : t.port.TransactionOk := by
  obtain ⟨-, rfl⟩ | ⟨station, rate, auto, rfl, rfl⟩ | rfl | ⟨judge, -, -, rfl⟩ | ⟨cause, act, hevent, -, -, rfl⟩ :=
    exec_cases h
  · exact Port.endTransaction_ok _
  · exact State.release_ok _
  · exact hok
  · exact .of_closed rfl rfl rfl
  · by_cases hbytes : commandBytes i = none
    · by_cases hmoves : movesTransaction i = false
      · exact hok.of_same (eventOf_transaction hevent hbytes hmoves).1
      · cases i
        case transactionBegin => cases hevent; exact ⟨rfl, fun _ => rfl, fun _ => rfl, nofun⟩
        case truncated clocks => cases hevent; exact Port.endTransaction_ok _
        case transactionEnd | responseEndedEarly => cases hevent; exact State.raiseSelect_ok
        case softResetActs => cases hevent; exact .of_closed rfl rfl rfl
        all_goals exact absurd rfl hmoves
    · obtain ⟨bytes, hbytes⟩ := Option.ne_none_iff_exists'.1 hbytes
      obtain ⟨code, rfl⟩ := eventOf_of_commandBytes hbytes hevent
      cases hevent
      exact .of_closed rfl rfl rfl

/-! ## A byte clocked in -/

/-- The operand bytes due never fall as bytes come in, and from the second on they stand (R172, R187). -/
theorem operandLength_append (code : Byte) (operands : List Byte) (x : Byte) :
    operandLength code operands ≤ operandLength code (operands ++ [x]) ∧
      (2 ≤ operands.length → operandLength code (operands ++ [x]) = operandLength code operands) := by
  have hcount : operands.getD 1 0 = 0 ∨ (operands ++ [x]).getD 1 0 = operands.getD 1 0 := by
    obtain - | ⟨a, - | ⟨b, l⟩⟩ := operands <;> simp
  have hstands : 2 ≤ operands.length → (operands ++ [x]).getD 1 0 = operands.getD 1 0 := fun h => by
    obtain - | ⟨a, - | ⟨b, l⟩⟩ := operands <;> simp at h ⊢
  unfold operandLength
  constructor
  · obtain h | h := hcount
    · rw [h]
      repeat' split
      all_goals simp
    · rw [h]
  · intro h
    rw [hstands h]

/-- The bytes with one more clocked in: the byte itself, or past the buffer's 51 bytes a 0 (R172). -/
theorem Port.clockIn_bytes (h : p.TransactionOk) : (p.clockIn x).bytes = p.bytes ++ [x] ∨
    (51 ≤ p.counted ∧ (p.clockIn x).bytes = p.bytes ++ [0]) := by
  have hstored : p.buffer.length = min p.counted 51 := h.stored
  show (p.buffer ++ [x]).take 51 ++ List.replicate (p.counted + 1 - ((p.buffer ++ [x]).take 51).length) 0 = _ ∨ _ ∧
    (p.buffer ++ [x]).take 51 ++ List.replicate (p.counted + 1 - ((p.buffer ++ [x]).take 51).length) 0 = _
  unfold Port.bytes
  by_cases hroom : p.counted < 51
  · have hlength : p.buffer.length = p.counted := by omega
    have hall : (p.buffer ++ [x]).take 51 = p.buffer ++ [x] := List.take_of_length_le (by simp; omega)
    left
    simp [hall, hlength]
  · have hlength : p.buffer.length = 51 := by omega
    have hfull : (p.buffer ++ [x]).take 51 = p.buffer := List.take_left' hlength
    have hmore : p.counted + 1 - 51 = p.counted - 51 + 1 := by omega
    right
    rw [hfull, hlength, hmore, List.replicate_succ', List.append_assoc]
    exact ⟨by omega, rfl⟩

/-- As many bytes are clocked in as are counted (R172). -/
theorem Port.TransactionOk.bytes_length (h : p.TransactionOk) : p.bytes.length = p.counted :=
  Port.bytes_length (by rw [h.stored]; exact Nat.min_le_left _ _)

/-- Bytes that spell no command yet, with a command named, call for more operand bytes (R187). -/
theorem operands_due {code : Byte} {operands : List Byte} (hdue : decodeCommand (code :: (operands ++ [x])) = none)
    (hlt : operands.length < operandLength code operands) :
    (operands ++ [x]).length < operandLength code (operands ++ [x]) := by
  have hne : (operands ++ [x]).length ≠ operandLength code (operands ++ [x]) := fun heq => by
    have hsome := decodeCommand_isSome heq
    rw [hdue] at hsome
    cases hsome
  have hle := (operandLength_append code operands x).1
  rw [List.length_append, List.length_singleton] at hne ⊢
  omega

/-- A byte clocked in before the command instant leaves a command named and operand bytes due (R187). -/
theorem Port.clockIn_ok (h : p.TransactionOk) (hready : p.ready = true) (hdue : decodeCommand (p.bytes ++ [x]) = none) :
    (p.clockIn x).TransactionOk := by
  have hstored : p.buffer.length = min p.counted 51 := h.stored
  refine ⟨?_, nofun, nofun, fun _ => ?_⟩
  · show ((p.buffer ++ [x]).take 51).length = min (p.counted + 1) 51
    simp
    omega
  · have hstate : p.state = .command ∨ p.state = .operands := by simpa [Port.ready] using hready
    obtain hcommand | hoperands := hstate
    · have hcounted := h.command hcommand
      have hempty : p.bytes = [] := List.length_eq_zero_iff.1 (h.bytes_length.trans hcounted)
      rw [hempty] at hdue
      obtain hbytes | ⟨hmany, -⟩ := Port.clockIn_bytes (x := x) h
      · refine ⟨x, [], by rw [hbytes, hempty]; rfl, ?_, ?_⟩
        · by_contra hname
          have hunknown : decodeCommand [x] = _ := plainCommand_unknown (by simpa using hname)
          rw [List.nil_append, hunknown] at hdue
          cases hdue
        · refine Nat.pos_of_ne_zero fun hzero => ?_
          have hsome := plainCommand_isSome x hzero
          rw [show plainCommand x = none from hdue] at hsome
          cases hsome
      · omega
    · obtain ⟨code, operands, hheld, hname, hlt⟩ := h.operands hoperands
      rw [hheld] at hdue
      have hmore := operands_due hdue hlt
      obtain hbytes | ⟨hmany, hbytes⟩ := Port.clockIn_bytes (x := x) h
      · exact ⟨code, operands ++ [x], by rw [hbytes, hheld]; rfl, hname, hmore⟩
      · refine ⟨code, operands ++ [0], by rw [hbytes, hheld]; rfl, hname, ?_⟩
        have hlength : 2 ≤ operands.length := by
          have hcount := h.bytes_length
          rw [hheld, List.length_cons] at hcount
          omega
        rw [(operandLength_append code operands x).2 hlength] at hmore
        rw [(operandLength_append code operands 0).2 hlength]
        simpa using hmore

theorem State.clockByte_ok (h : s.clockByte = .next t) (hready : s.port.ready = true) (hok : s.port.TransactionOk) :
    t.port.TransactionOk := by
  obtain ⟨x, rest, c, -, -, hc⟩ | ⟨x, rest, -, hdue, rfl⟩ | ⟨-, rfl⟩ := clockByte_cases h
  · exact exec_transactionOk hc (hok.of_same ⟨rfl, rfl, rfl, rfl⟩)
  · exact Port.clockIn_ok (p := { s.port with hdi := rest }) (hok.of_same ⟨rfl, rfl, rfl, rfl⟩) hready hdue
  · exact hok

theorem step_transactionOk (h : step s = .next t) (hok : s.port.TransactionOk) : t.port.TransactionOk := by
  obtain ⟨c, rest, -, he⟩ | ⟨-, -, c, -, he⟩ | ⟨-, -, hbyte, he⟩ | ⟨-, -, -, -, he⟩ | ⟨-, -, rfl⟩ | ⟨-, -, -, -, -, rfl⟩ :=
    step_cases h
  · exact exec_transactionOk he hok
  · exact exec_transactionOk he hok
  · exact State.clockByte_ok he ((Port.byteDue_iff _).1 hbyte).1 hok
  · exact exec_transactionOk he hok
  · exact hok
  · rw [State.microsecond_moves]
    refine hok.of_same ?_
    show s.port.SameTransaction s.port.tick
    rw [Port.tick_moves]
    exact ⟨rfl, rfl, rfl, rfl⟩

/-! ## A command instant -/

/-- The bytes of a command that has come in whole are its own, so it is heard (R187, R188). -/
theorem takes_of_decode {c : Instr} {q : Port} (hready : q.ready = true) (hdecode : decodeCommand (q.bytes ++ [x]) = some c) :
    q.takes c = true := by
  have hbytes := (decodeCommand_read hdecode).2
  unfold Port.takes
  rw [hready, hbytes]
  simp [Port.bytes]

/-- A byte complete on HDI, by whether a command has come in whole (R187, R188). -/
theorem State.clockByte_eq {x : HdiByte} {rest : List HdiByte} (h : s.port.hdi = x :: rest) : s.clockByte =
    (decodeCommand (s.port.bytes ++ [x.value])).elim
      (.next (s.setPort (Port.clockIn { s.port with hdi := rest } x.value)))
      (fun c => exec c (s.setPort { s.port with hdi := rest })) := by
  have hbytes : Port.bytes { s.port with hdi := rest } = s.port.bytes := rfl
  unfold State.clockByte
  rw [h]
  simp only [State.setPort_port, hbytes]
  cases decodeCommand (s.port.bytes ++ [x.value]) <;> rfl

/-- What the command instant leaves of the transaction (R187, R188, R191). -/
theorem exec_answered {bs : List Byte} (hbytes : commandBytes i = some bs) (hwell : i.wellFormed = true) (hhears : s.hears i)
    (hexec : exec i s = .next t) : t.port.hdi = [] ∧ t.port.buffer = [] ∧ t.port.counted = 0 ∧
      ((∃ code, i = .unknownCommand code) → t.port.state = .discard) ∧
      ((∀ code, i ≠ .unknownCommand code) → t.port.state = .response) := by
  obtain rfl | ⟨station, rate, auto, rfl⟩ | ⟨judge, hjudge⟩ | ⟨cause, act, hevent⟩ := command_kind i
  · cases hbytes
  · cases hbytes
  · rw [exec_judged hjudge hhears] at hexec
    cases hexec
    refine ⟨rfl, rfl, rfl, ?_, fun _ => rfl⟩
    rintro ⟨code, rfl⟩
    cases hjudge
  · obtain ⟨code, rfl⟩ := eventOf_of_commandBytes hbytes hevent
    have hname : namesCommand code = false := by simpa [Instr.wellFormed] using hwell
    rw [exec_caused (i := .unknownCommand code) rfl hhears.1 (by simp [hhears.2, hname])] at hexec
    cases hexec
    exact ⟨rfl, rfl, rfl, fun _ => rfl, fun h => absurd rfl (h code)⟩

theorem commandBytes_of_judgeOf {judge : State → Answer} (h : judgeOf i = some judge) : (commandBytes i).isSome = true := by
  cases i <;> cases h <;> rfl

/-- A rise before the command instant without a rise of HCLK latches nothing (R189). -/
theorem State.truncate_silent {n : Nat} (h : n = 0 ∧ s.port.counted = 0) :
    State.truncate n s = s.setPort s.port.endTransaction := by
  simp [State.truncate, h]

/-- Any other rise before the command instant latches TRUNCATED (R189). -/
theorem State.truncate_latches {n : Nat} (h : ¬ (n = 0 ∧ s.port.counted = 0)) :
    State.truncate n s = s.setPort (s.port.occur .truncated none).endTransaction := by
  simp [State.truncate, h, State.signal]

/-- An event leaves the transaction, whether or not its cause stands (R187). -/
theorem exec_event_transaction (h : exec i s = .next t) (hbytes : commandBytes i = none) (hassert : i ≠ .resetAssert)
    (hrelease : ∀ st r a, i ≠ .resetRelease st r a) (hmoves : movesTransaction i = false) :
    s.port.SameTransaction t.port ∧ (i ≠ .debtPayment → t.port.hdi = s.port.hdi) := by
  obtain ⟨rfl, -⟩ | ⟨station, rate, auto, rfl, -⟩ | rfl | ⟨judge, hjudge, -, -⟩ | ⟨cause, act, hevent, -, -, rfl⟩ :=
    exec_cases h
  · exact absurd rfl hassert
  · exact absurd rfl (hrelease _ _ _)
  · exact ⟨.of_eq rfl, fun _ => rfl⟩
  · have hsome := commandBytes_of_judgeOf hjudge
    rw [hbytes] at hsome
    cases hsome
  · exact eventOf_transaction hevent hbytes hmoves

/-- Settles O6. -/
theorem transactionsOpenAndClose : Obligations.TransactionsOpenAndClose := by
  refine ⟨fun s hreset hidle => ⟨?_, fun n => ?_⟩, fun s n hreset hready => ?_, fun s x rest hhdi => ⟨fun hdue => ?_, fun c hc => ?_⟩,
    fun i s t bs hwell hbytes hhears hexec => exec_answered hbytes hwell hhears hexec, fun s status bytes hreset => ?_,
    fun i s hreset hanswered hsoft hi => ?_, fun n s hreset hready => ?_, fun i s t hexec hbytes h1 h2 h3 h4 h5 h6 h7 => ?_,
    fun s t hok hstep => step_transactionOk hstep hok⟩
  · exact exec_caused (i := .transactionBegin) rfl hreset (by simp [hidle])
  · simp [State.hdo, hreset, hidle]
  · have hstate : s.port.state = .command ∨ s.port.state = .operands := by simpa [Port.ready] using hready
    obtain h | h := hstate <;> simp [State.hdo, hreset, h]
  · rw [State.clockByte_eq hhdi, hdue]
    rfl
  · have hclocked : s.clockByte = exec c (s.setPort { s.port with hdi := rest }) := by
      rw [State.clockByte_eq hhdi, hc]
      rfl
    exact ⟨hclocked, fun hreset hready => ⟨hreset, takes_of_decode (q := { s.port with hdi := rest }) hready hc⟩⟩
  · simp [State.hdo, hreset, State.answering, Port.hdo]
  · have hend : s.raiseSelect = s.setPort s.port.endTransaction := State.raiseSelect_of_not_softReset hsoft
    have hport : s.port.endTransaction = { s.port with
        state := .idle, hdi := [], buffer := [], counted := 0, response := [], marks := 0, readEvents := .none } := by
      simp [Port.endTransaction, Port.emptied, hsoft]
    rw [← hport, ← hend]
    obtain rfl | rfl := hi <;> exact exec_caused rfl hreset hanswered
  · refine ⟨_, exec_caused (i := .truncated n) rfl hreset hready, ?_⟩
    by_cases hnone : n = 0 ∧ s.port.counted = 0
    · rw [State.truncate_silent hnone, if_pos hnone]
      exact ⟨rfl, rfl, rfl, rfl, rfl, rfl, rfl, rfl, rfl, rfl⟩
    · rw [State.truncate_latches hnone, if_neg hnone]
      exact ⟨rfl, rfl, rfl, rfl, rfl, rfl, rfl, rfl, rfl, rfl⟩
  · have hmoves : movesTransaction i = false := movesTransaction_eq_false h3 h4 h5 h6 h7
    obtain ⟨⟨hstate, hbuffer, hcounted, hresponse⟩, hhdi⟩ := exec_event_transaction hexec hbytes h1 h2 hmoves
    exact ⟨hstate, hbuffer, hcounted, hresponse, hhdi⟩

end Sys2Proof.Machine
end

section

/-! What CONFIGURE and SET PATTERN store (R35, R80, R172, R173, R192). -/

namespace Sys2Proof.Machine

variable {s t u : State} {i : Instr} {p q : Parameters} {c : Store}

/-! ## CONFIGURE -/

/-- The parameters of the store as operands of CONFIGURE (R192). -/
def Store.parameters (c : Store) : Parameters where
  period := BitVec.ofNat 16 c.period
  window := BitVec.ofNat 8 c.window
  on := BitVec.ofNat 8 c.on
  off := BitVec.ofNat 8 c.off
  dropout := BitVec.ofNat 8 c.dropout
  horizon := BitVec.ofNat 32 c.horizon
  blend := BitVec.ofNat 32 c.blend
  snap := BitVec.ofNat 16 c.snap
  startLead := BitVec.ofNat 32 c.startLead
  finishWindow := BitVec.ofNat 8 c.finishWindow
  dnfTimeout := BitVec.ofNat 8 c.dnfTimeout
  linkDelay := BitVec.ofNat 8 c.linkDelay
  slew := BitVec.ofNat 16 c.slew
  lockBound := BitVec.ofNat 16 c.lockBound
  courses := c.operator.courses
  laps := c.operator.laps.setWidth 8
  options := c.operator.options.setWidth 8
  sweepGap := BitVec.ofNat 16 c.sweepGap
  contactLength := BitVec.ofNat 16 c.contactLength
  contactWidth := BitVec.ofNat 8 c.contactWidth
  draftLength := BitVec.ofNat 16 c.draftLength
  draftWidth := BitVec.ofNat 8 c.draftWidth

/-- The 38 bytes answered are the stored parameters, in operand order (R192). -/
theorem Store.bytes_eq (c : Store) : c.bytes = parameterBytes c.parameters := rfl

theorem Store.bytes_length (c : Store) : c.bytes.length = 38 := by
  simp [Store.bytes, be2_length, be4_length]

theorem parameterBytes_inj : parameterBytes p = parameterBytes q ↔ p = q := by
  refine ⟨fun h => ?_, congrArg _⟩
  have hread := congrArg readParameters h
  rw [readParameters_bytes, readParameters_bytes] at hread
  exact Option.some.inj hread

theorem ofNat_eq_iff {w n : Nat} {x : BitVec w} (h : n < 2 ^ w) : BitVec.ofNat w n = x ↔ n = x.toNat := by
  rw [← BitVec.toNat_inj, BitVec.toNat_ofNat, Nat.mod_eq_of_lt h]

theorem low_four : ∀ x : Byte, x.extractLsb' 0 4 = x.setWidth 4 ∧ (x.extractLsb' 0 4).setWidth 8 = x &&& 0x0F#8 := by
  decide

theorem low_two : ∀ x : Byte, x.extractLsb' 0 2 = x.setWidth 2 ∧ (x.extractLsb' 0 2).setWidth 8 = x &&& 3#8 := by
  decide

/-- The clamped byte is clear exactly when the parameters in the store are the operands, the three masks apart (R192). -/
theorem parametersClamped_iff (h : c.InRange) (hcourses : c.operator.courses = p.courses)
    (hlaps : c.operator.laps.setWidth 8 = q.laps) (hoptions : c.operator.options.setWidth 8 = q.options)
    (hq : q = { p with laps := q.laps, options := q.options }) :
    parametersClamped p c = false ↔ c.parameters = q := by
  obtain ⟨hperiod, hwindow, hon, hoff, hdropout, hhorizon, hblend, hsnap, hlead, hfinish, hdnf, hdelay, hslew, hlock, hgap,
    hlength, hwidth, hdraft, hdraftWidth, -⟩ := h
  rw [hq]
  simp (disch := omega) only [parametersClamped, Store.parameters, Parameters.mk.injEq, Bool.not_eq_false', Bool.and_eq_true,
    beq_iff_eq, ofNat_eq_iff, hcourses, hlaps, hoptions, true_and, and_assoc]

/-- What CONFIGURE stores spells the operands again exactly when none was changed, the ignored mask bits apart (R192). -/
theorem storeOf_bytes_iff (p : Parameters) (courses : Vector Nat 8) :
    parametersClamped p (storeOf p courses) = false ↔
      (storeOf p courses).bytes = parameterBytes { p with laps := p.laps &&& 0x0F#8, options := p.options &&& 3#8 } := by
  rw [Store.bytes_eq, parameterBytes_inj]
  show parametersClamped p (storeOf p Store.default.courses) = false ↔ (storeOf p Store.default.courses).parameters = _
  exact parametersClamped_iff (storeOf_inRange p Store.default_inRange.courses) rfl (low_four p.laps).2
    (low_two p.options).2 rfl

/-- Settles O14. -/
theorem configureClampsAndStores : Obligations.ConfigureClampsAndStores := by
  intro p s hhears hphase
  have hjudge : State.configure p s = (((s.setStore (storeOf p s.store.courses)).setLink
      (s.link.configured (storeOf p s.store.courses))).recomputeOffer).report
        ((storeOf p s.store.courses).bytes ++ [markByte [parametersClamped p (storeOf p s.store.courses)]]) := by
    simp [State.configure, hphase]
  refine ⟨_, exec_report rfl hhears hjudge, ?_, rfl, rfl, fun st => Link.configured_at _ _ st, ?_, Store.bytes_length _, ?_,
    storeOf_bytes_iff p _, rfl, rfl, hhears.1, rfl, rfl, rfl, rfl, rfl, rfl, rfl, rfl⟩
  · show storeOf p s.store.courses = _
    rw [← (low_four p.laps).1, ← (low_two p.options).1]
    rfl
  · rw [markByte_one]
    rfl
  · rw [← (low_four p.laps).2, ← (low_two p.options).2]
    rfl

/-! ## SET PATTERN -/

variable {steps : List (Byte × Byte)}

/-- A character argument as R173 stores it. -/
theorem storedChar_eq (c : Byte) : storedChar c = if 0x20#8 ≤ c ∧ c ≤ 0x7E#8 then c else 0x3F#8 := by
  simp [storedChar, BitVec.le_def]

/-- The seven field codes in order (R174). -/
theorem ofFieldCode_eq : ∀ n : Nat,
    ofFieldCode n = ([.place, .station, .lap, .elapsed, .gapT, .gapD, .delta] : List Field)[n]?
  | 0 | 1 | 2 | 3 | 4 | 5 | 6 => rfl
  | _ + 7 => rfl

theorem ofFieldCode_isSome (n : Nat) : (ofFieldCode n).isSome = true ↔ n ≤ 6 := by
  rw [ofFieldCode_eq, isSome_getElem?]
  exact Nat.lt_succ_iff

/-- A step can be used exactly when its code is one of the fifteen and a field code is at most 6 (R172, R173). -/
theorem ofStepBytes_isSome (code arg : Byte) : (ofStepBytes code arg).isSome = true ↔
    1 ≤ code.toNat ∧ code.toNat ≤ 15 ∧ (code = 1#8 → arg.toNat ≤ 6) := by
  have hone : code = 1#8 ↔ code.toNat = 1 := by rw [← BitVec.toNat_inj]; rfl
  rw [hone]
  unfold ofStepBytes
  split
  case h_1 hcode => simp [hcode, ofFieldCode_isSome]
  case h_16 =>
    simp only [imp_false] at *
    exact iff_of_false Bool.false_ne_true (by omega)
  all_goals
    next hcode => simp [hcode]

/-- Every step usable loads as many steps, each as its bytes name it (R172). -/
theorem ofSteps_of_usable (h : ∀ x ∈ steps, (ofStepBytes x.1 x.2).isSome = true) : ∃ list, ofSteps steps = some list ∧
    list.length = steps.length ∧
    ∀ k (hk : k < steps.length) (hk' : k < list.length), ofStepBytes steps[k].1 steps[k].2 = some list[k] := by
  induction steps with
  | nil => exact ⟨[], rfl, rfl, fun k hk => absurd hk (Nat.not_lt_zero k)⟩
  | cons x xs ih =>
    obtain ⟨list, hlist, hlength, heach⟩ := ih fun y hy => h y (List.mem_cons_of_mem x hy)
    obtain ⟨step, hstep⟩ := Option.isSome_iff_exists.1 (h x (List.mem_cons_self ..))
    refine ⟨step :: list, by simp [ofSteps, hstep, hlist], by simp [hlength], fun k hk hk' => ?_⟩
    cases k with
    | zero => exact hstep
    | succ k => exact heach k (by simpa using hk) (by simpa using hk')

/-- One step that cannot be used refuses the whole (R172). -/
theorem ofSteps_of_unusable (h : ¬ ∀ x ∈ steps, (ofStepBytes x.1 x.2).isSome = true) : ofSteps steps = none := by
  induction steps with
  | nil => exact absurd nofun h
  | cons x xs ih =>
    cases hstep : ofStepBytes x.1 x.2 with
    | none => simp [ofSteps, hstep]
    | some step =>
      have hrest : ¬ ∀ y ∈ xs, (ofStepBytes y.1 y.2).isSome = true := fun k => h fun y hy => by
        obtain rfl | hy := List.mem_cons.1 hy
        · rw [hstep]; rfl
        · exact k y hy
      simp [ofSteps, hstep, ih hrest]

/-- Settles O16. -/
theorem setPatternLoadsTheSteps : Obligations.SetPatternLoadsTheSteps := by
  refine ⟨fun n steps s hhears hphase => ⟨fun husable => ?_, fun hunusable => ?_⟩, fun arg => ?_⟩
  · obtain ⟨hn, hone, hmany, heach⟩ := husable
    obtain ⟨list, hlist, hlength, hsteps⟩ := ofSteps_of_usable fun x hx => (ofStepBytes_isSome x.1 x.2).2 (heach x hx)
    have hjudge : State.setPattern n steps s = (s.setPatterns (s.patterns.setIfInBounds n.toNat (some list))).done := by
      simp [State.setPattern, hphase, hn, hone, hmany, hlist]
    refine ⟨_, list, exec_done rfl hhears hjudge, rfl, hlength, fun i hi => ?_, hsteps⟩
    show (s.patterns.setIfInBounds n.toNat (some list))[i] = _
    simp [Vector.getElem_setIfInBounds, eq_comm]
  · refine exec_refuse (judge := State.setPattern n steps) rfl hhears ?_
    by_cases hrange : n.toNat ≤ 7 ∧ 1 ≤ steps.length ∧ steps.length ≤ 24
    · have hnone : ofSteps steps = none := ofSteps_of_unusable fun hall => hunusable
        ⟨hrange.1, hrange.2.1, hrange.2.2, fun x hx => (ofStepBytes_isSome x.1 x.2).1 (hall x hx)⟩
      simp [State.setPattern, hphase, hrange, hnone]
    · simp [State.setPattern, hphase, hrange]
  · intro char
    have hchar : storedChar arg = char := storedChar_eq arg
    refine ⟨?_, ?_⟩
    · rw [← ofFieldCode_eq]
      rfl
    · rw [← hchar]
      exact ⟨rfl, rfl, rfl, rfl, rfl, rfl, rfl, rfl, rfl, rfl, rfl, rfl, rfl, rfl⟩

end Sys2Proof.Machine
end

section

/-! The lobby: the set that gathers, the rule that resolves, and the commands that only re-evaluate it (R72, R73, R78, R80 to R87,
R99 to R101). -/

namespace Sys2Proof.Machine

variable {s t u : State} {i : Instr} {st : Station} {e : Event}

/-! ## The common masks and the rule -/

theorem State.gathers_iff : s.gathers st = true ↔ st = s.own ∨
    (((s.link.at st).presence = .present ∨ (s.link.at st).presence = .fading) ∧
      ∃ b : Beacon, (s.table.at st).beacon = some (0#8, b) ∧ (b.phase = .lobby ∨ b.phase = .proposing)) := by
  have hlive : s.live st = true ↔ (s.link.at st).presence = .present ∨ (s.link.at st).presence = .fading := by
    unfold State.live
    cases (s.link.at st).presence <;> simp [Presence.live]
  have hbeacon : ∀ b : Beacon, b.phase ≠ .armed ↔ b.phase = .lobby ∨ b.phase = .proposing := fun b => by
    cases b.phase <;> simp
  rw [← hlive]
  rcases htable : (s.table.at st).beacon with - | ⟨tag, b⟩
  · simp [State.gathers, htable]
  · simp only [State.gathers, htable, Bool.or_eq_true, Bool.and_eq_true, beq_iff_eq, bne_iff_ne, hbeacon, Option.some.injEq,
      Prod.mk.injEq, and_assoc, exists_and_left, exists_eq_left']
    rfl

theorem Offer.foldl_meet (f : Station → Offer) (l : List Station) : ∀ a : Offer,
    (l.foldl (fun acc st => acc.meet (f st)) a).courses = l.foldl (fun acc st => acc &&& (f st).courses) a.courses ∧
    (l.foldl (fun acc st => acc.meet (f st)) a).laps = l.foldl (fun acc st => acc &&& (f st).laps) a.laps ∧
    (l.foldl (fun acc st => acc.meet (f st)) a).options = l.foldl (fun acc st => acc &&& (f st).options) a.options := by
  induction l with
  | nil => exact fun _ => ⟨rfl, rfl, rfl⟩
  | cons x xs ih => exact fun a => ih (a.meet (f x))

/-- A bit stands in an intersection exactly where it stands in every mask (R83). -/
theorem foldl_and_getLsbD {w : Nat} (f : Station → BitVec w) (i : Nat) (l : List Station) : ∀ a : BitVec w,
    (l.foldl (fun acc st => acc &&& f st) a).getLsbD i = true ↔
      a.getLsbD i = true ∧ ∀ st ∈ l, (f st).getLsbD i = true := by
  induction l with
  | nil => simp
  | cons x xs ih =>
    intro a
    rw [List.foldl_cons, ih, BitVec.getLsbD_and, Bool.and_eq_true, List.forall_mem_cons, and_assoc]

/-- A course, lap code or option is common exactly where every member of the lobby set offers it (R83). -/
theorem State.commonOffer_iff :
    (∀ i, i < 8 → (s.commonOffer.courses.getLsbD i = true ↔
       ∀ st, member s.session.lobbySet st = true → (s.offerOf st).courses.getLsbD i = true)) ∧
     (∀ i, i < 4 → (s.commonOffer.laps.getLsbD i = true ↔
       ∀ st, member s.session.lobbySet st = true → (s.offerOf st).laps.getLsbD i = true)) ∧
     (∀ i, i < 2 → (s.commonOffer.options.getLsbD i = true ↔
       ∀ st, member s.session.lobbySet st = true → (s.offerOf st).options.getLsbD i = true)) := by
  obtain ⟨hcourses, hlaps, hoptions⟩ := Offer.foldl_meet s.offerOf (members s.session.lobbySet) Offer.full
  have hones : ∀ {w i : Nat}, i < w → (BitVec.allOnes w).getLsbD i = true := fun hi => by simp [hi]
  refine ⟨fun i hi => ?_, fun i hi => ?_, fun i hi => ?_⟩ <;> unfold State.commonOffer
  · rw [hcourses, foldl_and_getLsbD]
    simp only [mem_members]
    exact and_iff_right (hones hi)
  · rw [hlaps, foldl_and_getLsbD]
    simp only [mem_members]
    exact and_iff_right (hones hi)
  · rw [hoptions, foldl_and_getLsbD]
    simp only [mem_members]
    exact and_iff_right (hones hi)

theorem highestCourse_spec : ∀ m : BitVec 8, m ≠ 0 → m.getLsbD (highestCourse m).toNat = true ∧
    ∀ i, i < 8 → (highestCourse m).toNat < i → m.getLsbD i = false := by
  decide

theorem highestLapCode_spec : ∀ m : BitVec 4, m ≠ 0 → m.getLsbD (highestLapCode m).toNat = true ∧
    ∀ i, i < 4 → (highestLapCode m).toNat < i → m.getLsbD i = false := by
  decide

/-- The rule by its masks: NONE where no course or no lap code is common, else the highest of each (R83). -/
theorem ruleOf_none_iff (common : Offer) : ruleOf common = none ↔ common.courses = 0 ∨ common.laps = 0 := by
  unfold ruleOf
  split
  · next h => exact iff_of_true rfl h
  · next h => exact iff_of_false nofun h

theorem ruleOf_some {common : Offer} {r : Rule} (h : ruleOf common = some r) :
    common.courses.getLsbD r.course.toNat = true ∧ (∀ i, r.course.toNat < i → common.courses.getLsbD i = false) ∧
      common.laps.getLsbD r.lapCode.toNat = true ∧ (∀ i, r.lapCode.toNat < i → common.laps.getLsbD i = false) ∧
      r.options = common.options := by
  unfold ruleOf at h
  split at h
  · cases h
  · next hcommon =>
    cases h
    obtain ⟨hcourses, hlaps⟩ := not_or.1 hcommon
    obtain ⟨hcourse, hcourse'⟩ := highestCourse_spec _ hcourses
    obtain ⟨hlap, hlap'⟩ := highestLapCode_spec _ hlaps
    refine ⟨hcourse, fun i hi => ?_, hlap, fun i hi => ?_, rfl⟩
    · by_cases hlt : i < 8
      · exact hcourse' i hlt hi
      · exact BitVec.getLsbD_of_ge _ _ (Nat.not_lt.1 hlt)
    · by_cases hlt : i < 4
      · exact hlap' i hlt hi
      · exact BitVec.getLsbD_of_ge _ _ (Nat.not_lt.1 hlt)

/-- Settles O17. -/
theorem resolutionByTheOffers : Obligations.ResolutionByTheOffers := by
  refine ⟨fun s st => ?_, fun s => ?_, fun common => ⟨ruleOf_none_iff common, fun r hr => ruleOf_some hr⟩⟩
  · rw [← State.gathers_iff]
    show member (setOf s.gathers) st = true ↔ _
    rw [member_setOf]
  · obtain ⟨hcourses, hlaps, hoptions⟩ := State.commonOffer_iff (s := s)
    refine ⟨hcourses, hlaps, hoptions, by simp [State.offerOf], fun st tag b hst hbeacon => ?_, fun st hst hbeacon => ?_⟩
    · simp [State.offerOf, hst, hbeacon]
    · simp [State.offerOf, hst, hbeacon, Offer.full]

/-! ## A re-evaluation that proposes nothing -/

/-- What resolving the rule latches: RULE_CHANGE where the rule changes, CLEARDOWN where it is NONE with two members or more and
the mark was clear (R85, R86). -/
theorem State.resolveRule_latched (e : Event) : s.resolveRule.port.latched e = (s.port.latched e ||
    (decide (e = .ruleChange) && decide (s.resolveRule.session.rule ≠ s.session.rule)) ||
    (decide (e = .cleardown) && s.resolveRule.session.cleardownMark && !s.session.cleardownMark)) := by
  have hrule : s.resolveRule.session.rule = ruleOf s.commonOffer := rfl
  rw [hrule, State.resolveRule_mark]
  unfold State.resolveRule size
  dsimp only
  generalize ((ruleOf s.commonOffer).isNone && decide (2 ≤ (members s.session.lobbySet).length)) = down
  by_cases hchange : ruleOf s.commonOffer = s.session.rule <;> cases down <;> cases s.session.cleardownMark <;>
    simp [hchange, State.signal, Port.occur_latched]

/-- Neither kind that a resolution latches has a detail station (R195). -/
theorem State.resolveRule_details : s.resolveRule.port.details = s.port.details := by
  unfold State.resolveRule
  dsimp only
  repeat' split
  all_goals rfl

/-- The step from `s` to `t` is a re-evaluation in LOBBY that proposes nothing: the lobby set, the rule and the cleardown mark
stand afresh with their events, and nothing else moves (R81 to R86). -/
structure State.Regathered (s t : State) : Prop where
  moves : t = (s.setSession { s.session with
    lobbySet := setOf s.gathers, rule := t.session.rule, cleardownMark := t.session.cleardownMark }).setPort t.port
  rule : t.session.rule = ruleOf t.commonOffer
  mark : t.session.cleardownMark = true ↔ t.session.rule = none ∧ 2 ≤ (members t.session.lobbySet).length
  latched : ∀ e : Event, t.port.latched e = (s.port.latched e ||
    (decide (e = .ruleChange) && decide (t.session.rule ≠ s.session.rule)) ||
    (decide (e = .cleardown) && t.session.cleardownMark && !s.session.cleardownMark))
  details : t.port.details = s.port.details
  port : s.port.Grows t.port

theorem State.resolve_regathered : s.Regathered s.recomputeLobby.resolveRule where
  moves := by
    rw [State.resolveRule_moves]
    rfl
  rule := State.resolves_lobby.2.1
  mark := State.resolves_lobby.2.2
  latched := State.resolveRule_latched (s := s.recomputeLobby)
  details := State.resolveRule_details (s := s.recomputeLobby)
  port := (State.recomputeLobby_quiet.trans State.resolveRule_quiet).port

/-- In LOBBY with Condition A failing a re-evaluation proposes nothing (R82, R91). -/
theorem State.reevaluate_regathered (hphase : s.session.phase = .lobby)
    (hfails : s.recomputeLobby.resolveRule.conditionA = false) : s.Regathered s.reevaluate := by
  have hstays : s.reevaluate = s.recomputeLobby.resolveRule := by
    unfold State.reevaluate
    rw [hphase]
    exact if_neg (by simp [hfails])
  rw [hstays]
  exact State.resolve_regathered

theorem State.reevaluate_regathered_idle (hphase : s.session.phase = .lobby)
    (hidle : s.session.ready = false ∨ s.session.abortHold ≠ none) : s.Regathered s.reevaluate := by
  rw [State.reevaluate_lobby hphase hidle]
  exact State.resolve_regathered

theorem State.Regathered.session (h : s.Regathered t) : t.session = { s.session with
    lobbySet := t.session.lobbySet, rule := t.session.rule, cleardownMark := t.session.cleardownMark } := by
  rw [h.moves]; rfl

theorem State.Regathered.motion (h : s.Regathered t) : t.motion = s.motion := by rw [h.moves]; rfl
theorem State.Regathered.prox (h : s.Regathered t) : t.prox = s.prox := by rw [h.moves]; rfl
theorem State.Regathered.standings (h : s.Regathered t) : t.standings = s.standings := by rw [h.moves]; rfl

theorem State.Regathered.quiet (h : s.Regathered t) : s.Quiet t := by
  refine ⟨⟨⟨?_, ?_, ?_, ?_, ?_, ?_, ?_, h.port⟩, ?_, ?_⟩, ?_⟩ <;> rw [h.moves] <;> rfl

theorem State.Regathered.lobbySet (h : s.Regathered t) (st : Station) : member t.session.lobbySet st = s.gathers st := by
  rw [h.moves]
  exact member_setOf _ _

/-! ## The commands of the lobby -/

/-- Settles O18. -/
theorem joinEntersTheLobby : Obligations.JoinEntersTheLobby := by
  intro s hhears hphase hready
  have hjudge : s.join = s.joinLobby.done := by simp [State.join, hphase]
  have hjoined : ((s.setSession { s.session with phase := .lobby, cleardownMark := false }).setBus { s.bus with
      period := some s.store.period, badFrames := 0, collisions := 0, dropped := 0 }).Regathered s.joinLobby :=
    State.reevaluate_regathered_idle rfl (.inl hready)
  have hq := hjoined.quiet
  refine ⟨_, exec_done (judge := State.join) rfl hhears hjudge, congrArg Session.phase hjoined.session,
    (congrArg Session.ready hjoined.session).trans hready, hq.bus, hjoined.lobbySet, hjoined.rule, hjoined.session,
    hjoined.mark, fun e => ?_, rfl, rfl, hq.port.mask, hjoined.details, hq.pending, hq.choices, hq.inReset.trans hhears.1,
    hq.straps, hq.store, hq.link, hq.clock, hq.table, hjoined.motion, hjoined.prox, hjoined.standings, hq.patterns⟩
  exact (hjoined.latched e).trans (congrArg (_ || ·) (Bool.and_true _))

/-- Settles O21. -/
theorem setOfferReplacesTheOffer : Obligations.SetOfferReplacesTheOffer := by
  intro courses laps options s hhears hphase hready
  let offer : Offer := { courses := courses, laps := laps.extractLsb' 0 4, options := options.extractLsb' 0 2 }
  let offered := (s.setSession { s.session with hostOffer := offer }).recomputeOffer
  have hjudge : State.setOffer courses laps options s = offered.reevaluate.done := by
    simp [State.setOffer, hphase, hready, offered, offer]
  have hresolved : offered.Regathered offered.reevaluate := State.reevaluate_regathered_idle hphase (.inl hready)
  have hq := hresolved.quiet
  have hsession := hresolved.session
  have hlaps : laps.extractLsb' 0 4 = laps.setWidth 4 := (low_four laps).1
  have hoptions : options.extractLsb' 0 2 = options.setWidth 2 := (low_two options).1
  refine ⟨_, exec_done rfl hhears hjudge, ?_, ?_, (congrArg Session.phase hsession).trans hphase,
    (congrArg Session.ready hsession).trans hready, hresolved.lobbySet, hresolved.rule, hresolved.mark, hresolved.latched, rfl,
    hq.port.mask, hresolved.details, hq.pending, hq.choices, hq.straps, hq.store, hq.bus, hq.link, hq.clock, hq.table,
    hresolved.motion, hresolved.prox, hresolved.standings, hq.patterns⟩
  · rw [← hlaps, ← hoptions]
    exact (congrArg Session.hostOffer hsession).trans rfl
  · rw [← hlaps, ← hoptions]
    exact (congrArg Session.effective hsession).trans rfl

/-- Settles O23. -/
theorem abortHoldRunsOut : Obligations.AbortHoldRunsOut := by
  have hexec : ∀ s : State, s.inReset = false → s.session.abortHold = some 0 →
      exec .abortHoldExpiry s = .next (s.setSession { s.session with abortHold := none }).reevaluate :=
    fun s hreset hhold => exec_caused (i := .abortHoldExpiry) rfl hreset (by simp [State.holdOver, hhold])
  refine ⟨hexec, fun s hreset hhold hphase hfails => ⟨_, hexec s hreset hhold, ?_⟩⟩
  have hresolved : (s.setSession { s.session with abortHold := none }).Regathered
      (s.setSession { s.session with abortHold := none }).reevaluate := by
    obtain hready | hcondition := hfails
    · exact State.reevaluate_regathered_idle hphase (.inl hready)
    · exact State.reevaluate_regathered hphase hcondition
  have hq := hresolved.quiet
  have hsession := hresolved.session
  exact ⟨(congrArg Session.abortHold hsession).trans rfl, (congrArg Session.phase hsession).trans hphase,
    (congrArg Session.ready hsession).trans rfl, hresolved.lobbySet, hresolved.rule,
    (congrArg Session.lastAbort hsession).trans rfl, hq.pending,
    hq.store, hq.bus, hq.link, hq.clock, hq.table, hresolved.motion, hresolved.prox, hresolved.standings⟩

/-! ## Readiness and the abort -/

/-- The state an abort leaves before its re-evaluation (R99). -/
def State.abandoned (s : State) (cause : AbortCause) (station : Option Station) : State :=
  (((s.setSession { s.session.dissolve with
    phase := .lobby, abortHold := some Config.abortHold, lastAbort := some (cause, station) }).setMotion
      { live := none, frozen := none }).signal .aborted)

/-- An abort re-evaluates without proposing, the abort flag standing (R99). -/
theorem State.abort_regathered (cause : AbortCause) (station : Option Station) :
    (s.abandoned cause station).Regathered (s.abort cause station) :=
  State.resolve_regathered (s := s.abandoned cause station)

theorem State.abort_latched (cause : AbortCause) (station : Option Station) :
    (s.abort cause station).port.latched .aborted = true :=
  Port.latched_of_and (State.abort_regathered cause station).port.latch (Port.occur_latched_self s.port .aborted none)

theorem Session.proposalOf_none {x : Session} (h : x.proposals = Vector.replicate 16 none) (st : Station) :
    x.proposalOf st = none := by
  simp [Session.proposalOf, h]

/-- Settles O22. -/
theorem readinessCommands : Obligations.ReadinessCommands := by
  have hset : ∀ s : State, s.session.phase = .lobby → s.setReady = (s.setReadyFlag true).reevaluate.done := fun s hphase => by
    simp [State.setReady, hphase]
  refine ⟨⟨fun s hhears hphase => exec_done (judge := State.setReady) rfl hhears (hset s hphase),
    fun s hhears hphase hfails => ⟨_, exec_done (judge := State.setReady) rfl hhears (hset s hphase), ?_⟩,
    fun s hhears hphase => exec_done (judge := State.setReady) rfl hhears ?_⟩,
    fun s hhears hphase => ?_, fun s hhears hphase => ?_⟩
  · have hresolved : (s.setReadyFlag true).Regathered (s.setReadyFlag true).reevaluate :=
      State.reevaluate_regathered hphase hfails
    have hq := hresolved.quiet
    have hsession := hresolved.session
    exact ⟨(congrArg Session.phase hsession).trans hphase, (congrArg Session.ready hsession).trans rfl, hresolved.lobbySet,
      hresolved.rule, (congrArg Session.hostOffer hsession).trans rfl,
      (congrArg Session.abortHold hsession).trans rfl, rfl, hq.pending, hq.store,
      hq.bus, hq.link, hq.clock, hq.table, hresolved.motion, hresolved.prox, hresolved.standings, hq.patterns⟩
  · obtain h | h := hphase <;> simp [State.setReady, h]
  · have hjudge : s.clearReady = (s.setReadyFlag false).reevaluate.done := by simp [State.clearReady, hphase]
    have hresolved : (s.setReadyFlag false).Regathered (s.setReadyFlag false).reevaluate :=
      State.reevaluate_regathered_idle hphase (.inl rfl)
    have hq := hresolved.quiet
    have hsession := hresolved.session
    exact ⟨_, exec_done (judge := State.clearReady) rfl hhears hjudge, (congrArg Session.phase hsession).trans hphase,
      (congrArg Session.ready hsession).trans rfl, (congrArg Session.abortHold hsession).trans rfl,
      hresolved.lobbySet, hresolved.rule,
      (congrArg Session.hostOffer hsession).trans rfl, (congrArg Session.effective hsession).trans rfl,
      (congrArg Session.roster hsession).trans rfl,
      (congrArg Session.lastAbort hsession).trans rfl, rfl, hq.pending, hq.store, hq.bus, hq.link, hq.clock, hq.table,
      hresolved.motion,
      hresolved.prox, hresolved.standings, hq.patterns⟩
  · have hjudge : s.clearReady = ((s.setReadyFlag false).abort .host none).done := by
      obtain h | h := hphase <;> simp [State.clearReady, h]
    have hresolved := State.abort_regathered (s := s.setReadyFlag false) .host none
    have hq := hresolved.quiet
    have hsession := hresolved.session
    have hgrows : s.port.Grows ((s.setReadyFlag false).abort .host none).port :=
      (State.abort_quiet (s := s.setReadyFlag false) .host none).port
    refine ⟨_, exec_done (judge := State.clearReady) rfl hhears hjudge, (congrArg Session.phase hsession).trans rfl,
      (congrArg Session.ready hsession).trans rfl, (congrArg Session.roster hsession).trans rfl,
      Session.proposalOf_none ((congrArg Session.proposals hsession).trans rfl), (congrArg Session.agreed hsession).trans rfl,
      (congrArg Session.tag hsession).trans rfl, (congrArg Session.held hsession).trans rfl, hresolved.rule,
      (congrArg Session.abortHold hsession).trans rfl, (congrArg Session.lastAbort hsession).trans rfl,
      hresolved.motion.trans rfl, ?_, hresolved.lobbySet, (congrArg Session.hostOffer hsession).trans rfl,
      (congrArg Session.effective hsession).trans rfl, hgrows.latch, rfl, hq.pending, hq.store, hq.bus, hq.link,
      hq.clock, hq.table,
      hresolved.prox, hresolved.standings, hq.patterns⟩
    exact State.abort_latched (s := s.setReadyFlag false) .host none

end Sys2Proof.Machine
end

section

/-! The countdown: Condition A and entry to PROPOSING, Condition B and entry to ARMED, the abort, and the start instant (R82, R91 to
R103). -/

namespace Sys2Proof.Machine

variable {s t u : State} {i : Instr} {st z : Station} {f : Frame} {roster : StationSet}

/-! ## Condition A and Condition B -/

theorem State.live_iff : s.live st = true ↔ (s.link.at st).presence = .present ∨ (s.link.at st).presence = .fading := by
  unfold State.live
  cases (s.link.at st).presence <;> simp [Presence.live]

theorem State.memberMatches_iff {r : Rule} : s.memberMatches r st = true ↔
    ∃ tag b, (s.table.at st).beacon = some (tag, b) ∧ b.ready = true ∧ b.abort = false ∧ b.roster = s.session.lobbySet ∧
      b.rule.isNone = false ∧ b.rule.course = r.course ∧ b.rule.lapCode = r.lapCode ∧ b.rule.options = r.options := by
  unfold State.memberMatches RuleField.agrees
  rcases (s.table.at st).beacon with - | ⟨tag, b⟩ <;> simp [and_assoc]

theorem State.conditionA_iff : s.conditionA = true ↔
    s.session.ready = true ∧ s.session.abortHold = none ∧ s.clock.state = .locked ∧ 2 ≤ (members s.session.lobbySet).length ∧
      ∃ r, s.session.rule = some r ∧ ∀ st, member s.session.lobbySet st = true → st ≠ s.own → s.memberMatches r st = true := by
  unfold State.conditionA size
  rcases s.session.rule with - | r <;> simp [and_assoc, State.mem_others]

theorem State.countsAsBeacon_iff : s.countsAsBeacon st = true ↔ (s.table.at st).lastKind = .beacon ∨
    (s.session.phase = .armed ∧ (s.table.at st).lastKind = .car ∧ ∃ c, (s.table.at st).car = some (s.session.tag, c)) := by
  unfold State.countsAsBeacon
  rcases hcar : (s.table.at st).car with - | ⟨tag, c⟩ <;> simp [hcar, and_assoc]

theorem RuleField.agrees_iff {b : RuleField} {r : Rule} : b.agrees r = true ↔
    b = { isNone := false, course := r.course, lapCode := r.lapCode, options := r.options } := by
  cases b
  simp [RuleField.agrees, and_assoc]

/-- Items 1 to 8 of Condition B for one member (R94, R95). -/
theorem State.memberAgrees_iff {r : Rule} (hrule : s.session.rule = some r) : s.memberAgrees roster st = true ↔
    ((s.link.at st).presence = .present ∨ (s.link.at st).presence = .fading) ∧
    ((s.table.at st).lastKind = .beacon ∨
      (s.session.phase = .armed ∧ (s.table.at st).lastKind = .car ∧ ∃ c, (s.table.at st).car = some (s.session.tag, c))) ∧
    ∃ tag b, (s.table.at st).beacon = some (tag, b) ∧ b.ready = true ∧ b.abort = false ∧ b.roster = roster ∧
      b.rule = { isNone := false, course := r.course, lapCode := r.lapCode, options := r.options } ∧
      (∀ p, s.session.proposalOf st = some p → b.proposal = some p) := by
  rw [← State.live_iff, ← State.countsAsBeacon_iff]
  unfold State.memberAgrees
  rw [hrule, Bool.and_eq_true, Bool.and_eq_true, and_assoc]
  refine and_congr_right fun _ => and_congr_right fun _ => ?_
  rcases (s.table.at st).beacon with - | ⟨tag, b⟩
  · simp
  · rcases s.session.proposalOf st with - | p <;> simp [and_assoc, RuleField.agrees_iff]

theorem members_sorted (m : StationSet) : (members m).Pairwise (· < ·) :=
  (show stations.Pairwise (· < ·) by decide).sublist List.filter_sublist

theorem State.others_sorted : (s.others roster).Pairwise (· < ·) :=
  (members_sorted roster).sublist List.filter_sublist

/-- In a rising list the first station that fails a test is the lowest that does. -/
theorem find_iff_lowest {p : Station → Bool} {l : List Station} (hsorted : l.Pairwise (· < ·)) :
    l.find? p = some st ↔ st ∈ l ∧ p st = true ∧ ∀ z ∈ l, z < st → p z = false := by
  induction l with
  | nil => simp
  | cons x xs ih =>
    obtain ⟨hfirst, hrest⟩ := List.pairwise_cons.1 hsorted
    by_cases hx : p x = true
    · rw [List.find?_cons_of_pos hx]
      refine ⟨?_, fun ⟨hmem, _, hlow⟩ => ?_⟩
      · rintro ⟨⟩
        refine ⟨List.mem_cons_self, hx, fun z hz hlt => ?_⟩
        obtain rfl | hz := List.mem_cons.1 hz
        · exact absurd hlt (lt_irrefl _)
        · exact absurd (hlt.trans (hfirst z hz)) (lt_irrefl _)
      · obtain rfl | hmem := List.mem_cons.1 hmem
        · rfl
        · rw [hlow x List.mem_cons_self (hfirst st hmem)] at hx
          exact absurd hx Bool.false_ne_true
    · rw [List.find?_cons_of_neg hx, ih hrest, List.mem_cons, List.forall_mem_cons]
      refine ⟨fun ⟨hmem, hst, hlow⟩ => ⟨.inr hmem, hst, fun _ => by simpa using hx, hlow⟩,
        fun ⟨hmem, hst, _, hlow⟩ => ⟨hmem.resolve_left ?_, hst, hlow⟩⟩
      rintro rfl
      exact hx hst

/-- Where the clock is LOCKED, Condition B fails by a member exactly where it is the lowest that fails (R96). -/
theorem State.breach_member_iff (hclock : s.clock.state = .locked) : s.breach = some (.member, some st) ↔
    st ∈ s.others (s.session.roster.getD 0) ∧ s.memberAgrees (s.session.roster.getD 0) st = false ∧
      ∀ z ∈ s.others (s.session.roster.getD 0), z < st → s.memberAgrees (s.session.roster.getD 0) z = true := by
  have hfind := find_iff_lowest (p := fun z => !s.memberAgrees (s.session.roster.getD 0) z) (st := st)
    (s.others_sorted (roster := s.session.roster.getD 0))
  simp only [Bool.not_eq_true', Bool.not_eq_false'] at hfind
  rw [← hfind]
  show s.breach = _ ↔ s.failingMember = some st
  unfold State.breach
  rw [if_neg (by simp [hclock])]
  rcases s.failingMember with - | z
  · simp only [reduceCtorEq, iff_false]
    split <;> nofun
  · simp

/-! ## Entry to PROPOSING -/

theorem State.recordProposal_proposalOf (a : Station) : (s.recordProposal a).session.proposalOf st =
    if st = a ∧ s.session.inRoster st = true ∧ st ≠ s.own ∧ s.session.proposalOf st = none then s.carriedProposal st
    else s.session.proposalOf st := by
  unfold State.recordProposal
  by_cases hst : st = a
  · subst hst
    by_cases hrecords : s.session.inRoster st = true ∧ st ≠ s.own ∧ s.session.proposalOf st = none
    · simp [hrecords]
    · simp only [true_and, if_neg hrecords]
      rw [if_neg]
      simpa [and_assoc] using hrecords
  · rw [if_neg (c := st = a ∧ _) (fun h => hst h.1)]
    split
    · exact Session.putProposal_ne _ _ hst
    · rfl

/-- Recording along a list records the members of the roster in it, each once (R93). -/
theorem foldl_recordProposal_proposalOf (l : List Station) : ∀ s : State,
    (l.foldl State.recordProposal s).session.proposalOf st =
      if st ∈ l ∧ s.session.inRoster st = true ∧ st ≠ s.own ∧ s.session.proposalOf st = none then s.carriedProposal st
      else s.session.proposalOf st := by
  induction l with
  | nil => intro s; simp
  | cons a l ih =>
    intro s
    obtain ⟨q, hmoves⟩ := State.recordProposal_moves (s := s) a
    have hroster : (s.recordProposal a).session.inRoster st = s.session.inRoster st := by rw [hmoves]; rfl
    have hown : (s.recordProposal a).own = s.own := by rw [hmoves]; rfl
    have hcarried : (s.recordProposal a).carriedProposal st = s.carriedProposal st := by rw [hmoves]; rfl
    rw [List.foldl_cons, ih, hroster, hown, hcarried, State.recordProposal_proposalOf]
    simp only [List.mem_cons]
    by_cases hrecords : s.session.inRoster st = true ∧ st ≠ s.own ∧ s.session.proposalOf st = none
    · obtain ⟨hin, hne, hnone⟩ := hrecords
      obtain rfl | hst := eq_or_ne st a <;> by_cases hl : st ∈ l <;> simp [*]
    · simp only [hrecords, and_false, if_false]

theorem roundUp_thousand (n : Nat) : roundUp 1000 n = (n + 999) / 1000 * 1000 := rfl

/-- Entry to PROPOSING records the own proposal, and every other member's from its stored beacon (R92, R93). -/
theorem State.enterProposing_proposalOf : s.enterProposing.session.proposalOf st =
    if st = s.own then some (proposalAt s.now s.store.startLead)
    else if member s.session.lobbySet st then s.carriedProposal st else none := by
  unfold State.enterProposing
  rw [foldl_recordProposal_proposalOf]
  by_cases hown : st = s.own
  · subst hown
    simp [State.own, State.setSession]
  · have hnone : (Session.putProposal { s.session with
        phase := .proposing, roster := some s.session.lobbySet, held := true, proposals := Vector.replicate 16 none }
          s.own (some (proposalAt s.now s.store.startLead))).proposalOf st = none :=
      (Session.putProposal_ne _ _ hown).trans (Session.proposalOf_none rfl st)
    simp only [hown, if_false, mem_stations, true_and, State.setSession_session, hnone, and_true]
    by_cases hmember : member s.session.lobbySet st = true
    · rw [if_pos ⟨hmember, hown⟩, if_pos hmember]; rfl
    · rw [if_neg (fun h => hmember h.1), if_neg hmember]

/-! ## Entry to ARMED and what follows -/

/-- A re-evaluation in PROPOSING aborts where Condition B fails (R96). -/
theorem State.evaluateProposing_aborts {cause : AbortCause} {who : Option Station}
    (hbreach : s.recomputeLobby.breach = some (cause, who)) : s.evaluateProposing = s.recomputeLobby.abort cause who := by
  unfold State.evaluateProposing
  simp only [hbreach]

/-- It waits where a proposal is still to come (R97). -/
theorem State.evaluateProposing_waits (hbreach : s.recomputeLobby.breach = none)
    (hwaits : ∃ st, member (s.session.roster.getD 0) st = true ∧ s.session.proposalOf st = none) :
    s.evaluateProposing = s.recomputeLobby := by
  obtain ⟨st, hmember, hnone⟩ := hwaits
  have hincomplete : ¬ s.recomputeLobby.proposalsComplete = true := by
    intro hall
    have := List.all_eq_true.1 hall st ((mem_members _ _).2 hmember)
    exact absurd hnone (Option.isSome_iff_ne_none.1 this)
  unfold State.evaluateProposing
  simp only [hbreach, if_neg hincomplete]

/-- It goes on to ARMED with the last proposal, and to the start instant where that is reached (R97, R98, R102). -/
theorem State.evaluateProposing_arms {start : Time} (hreset : s.inReset = false) (hphase : s.session.phase = .proposing)
    (hbreach : s.recomputeLobby.breach = none)
    (hall : ∀ st, member (s.session.roster.getD 0) st = true → (s.session.proposalOf st).isSome = true)
    (hstart : s.recomputeLobby.enterArmed.session.agreed = some start) :
    (tdiff s.now start < 0 → s.evaluateProposing = s.recomputeLobby.enterArmed) ∧
      (0 ≤ tdiff s.now start → exec .startInstant s.recomputeLobby.enterArmed = .next s.evaluateProposing) := by
  have hcomplete : s.recomputeLobby.proposalsComplete = true :=
    List.all_eq_true.2 fun st hst => hall st ((mem_members _ _).1 hst)
  obtain ⟨hreached, hafter⟩ := State.afterArmed_cases hstart (State.enterArmed_breach hbreach hphase) rfl
  have harms : s.evaluateProposing = s.recomputeLobby.enterArmed.afterArmed := by
    unfold State.evaluateProposing
    simp only [hbreach, hcomplete, if_true]
  rw [harms, hafter]
  refine ⟨fun hlt => if_neg (not_le.2 hlt), fun hle => ?_⟩
  rw [if_pos (show 0 ≤ tdiff s.recomputeLobby.now start from hle)]
  exact exec_caused (i := .startInstant) rfl hreset (hreached.trans (decide_eq_true hle))

/-! ## Frames applied outside a race -/

/-- Outside a race the Standings Unit takes nothing from an apply (R155, R160). -/
theorem State.standingsTold_idle (hrace : s.session.phase.inRace = false) : s.standingsTold f = s := by
  unfold State.standingsTold
  split
  · rfl
  · rw [if_neg (by simp [hrace])]

theorem State.offerClaim_idle (hrace : s.session.phase.inRace = false) (finish : Time) (tag : Byte) :
    s.offerClaim st finish tag = s :=
  if_neg (by simp [State.claimHolds, hrace])

theorem State.offerFrom_idle (hrace : s.session.phase.inRace = false) (c : CarRecord) : s.offerFrom f c = s := by
  unfold State.offerFrom
  split
  · rfl
  · exact State.offerClaim_idle hrace _ _

/-- A beacon applied in LOBBY stands in its sender's entry, and a re-evaluation follows (R61, R82). -/
theorem State.applyFrame_beacon_lobby (hphase : s.session.phase = .lobby) {b : Beacon} (hbody : f.body = .beacon b) (ta : Time) :
    s.applyFrame f ta = (s.putEntry f.sender ((s.table.at f.sender).withBeacon f.tag b)).reevaluate := by
  unfold State.applyFrame State.applyBeacon
  simp only [hbody]
  rw [State.standingsTold_idle (by simp [State.putEntry, hphase, Phase.inRace])]
  unfold State.sessionToldBeacon
  simp [State.putEntry, hphase]

/-- A car frame applied outside a race stands in its sender's entry, and a re-evaluation follows (R62, R82). -/
theorem State.applyFrame_car_idle (hrace : s.session.phase.inRace = false) {c : CarRecord} (hbody : f.body = .car c)
    (ta : Time) : s.applyFrame f ta = (s.putEntry f.sender
      ((s.table.at f.sender).withCar f.tag c (s.newResidual f.sender f.tag c ta) ta)).reevaluate := by
  unfold State.applyFrame State.applyCar
  simp only [hbody]
  rw [State.offerFrom_idle (by exact hrace), State.standingsTold_idle (by exact hrace)]

theorem State.putEntry_self (x : Entry) : (s.putEntry st x).table.at st = x := Table.put_at_self _ _ _

theorem State.putEntry_ne (x : Entry) (h : z ≠ st) : (s.putEntry st x).table.at z = s.table.at z := Table.put_at_ne _ _ h

theorem State.Regathered.splits (h : s.Regathered t) : t = (s.setSession t.session).setPort t.port :=
  h.moves.trans (congrArg (fun x => (s.setSession x).setPort t.port) (congrArg State.session h.moves).symm)

theorem State.enterProposing_fixed : s.enterProposing.inReset = s.inReset ∧ s.enterProposing.clock = s.clock := by
  obtain ⟨q, hmoves⟩ := State.enterProposing_moves (s := s)
  rw [hmoves]
  exact ⟨rfl, rfl⟩

/-- Settles O24. -/
theorem enteringProposing : Obligations.EnteringProposing := by
  refine ⟨fun s => ?_, fun s hown => ?_, fun s hreset hphase => ?_⟩
  · rw [State.conditionA_iff]
    simp only [State.memberMatches_iff]
  · obtain ⟨q, hmoves⟩ := State.enterProposing_moves (s := s)
    refine ⟨by rw [hmoves]; rfl, by rw [hmoves]; rfl, by rw [hmoves]; rfl, by rw [hmoves]; rfl, ?_, fun st hst => ?_,
      by rw [hmoves]; rfl, by rw [hmoves]; rfl⟩
    · rw [State.enterProposing_proposalOf, if_pos rfl]; rfl
    · rw [State.enterProposing_proposalOf, if_neg hst]
  · intro u v w
    have hregathered : s.Regathered u := State.resolve_regathered
    have hsettled : v.recomputeLobby = v := State.recomputeLobby_of (by
      obtain ⟨q, hmoves⟩ := State.enterProposing_moves (s := u)
      show u.enterProposing.session.lobbySet = setOf u.enterProposing.gathers
      rw [hmoves]
      exact State.recomputeLobby_gathered.resolveRule)
    obtain ⟨q, hmoves⟩ := State.enterProposing_moves (s := u)
    have hroster : v.session.roster.getD 0 = u.session.lobbySet := by
      show (u.enterProposing.session.roster).getD 0 = _
      rw [hmoves]; rfl
    have hreevaluate : s.reevaluate = if u.conditionA then v.evaluateProposing else u := by
      unfold State.reevaluate
      rw [hphase]; rfl
    have hrace : s.session.phase.inRace = false := by rw [hphase]; rfl
    refine ⟨hregathered.lobbySet, hregathered.rule, hregathered.mark, hregathered.latched, hregathered.session, ?_,
      fun hfails => ?_, fun cause st hcond hbreach => ?_, fun hcond hbreach hwaits => ?_,
      fun start hcond hbreach hall hstart => ?_, fun f b ta hbody => ?_, fun f c ta hbody => ?_⟩
    · exact hregathered.splits
    · rw [hreevaluate, hfails]; rfl
    · rw [hreevaluate, hcond, if_pos rfl, State.evaluateProposing_aborts (hsettled.symm ▸ hbreach), hsettled]
    · rw [hreevaluate, hcond, if_pos rfl, State.evaluateProposing_waits (hsettled.symm ▸ hbreach) (hroster.symm ▸ hwaits),
        hsettled]
    · have hnow : v.now = s.now := congrArg (fun c : Clock => c.t + c.k) (State.enterProposing_fixed.2.trans hregathered.quiet.clock)
      have harms := State.evaluateProposing_arms (s := v) (start := start)
        (State.enterProposing_fixed.1.trans (hregathered.quiet.inReset.trans hreset)) (by
        show u.enterProposing.session.phase = _; rw [hmoves]; rfl)
        (hsettled.symm ▸ hbreach) (hroster.symm ▸ hall) (hsettled.symm ▸ hstart)
      rw [hsettled, hnow] at harms
      rw [hreevaluate, hcond, if_pos rfl]
      exact harms
    · exact ⟨_, State.applyFrame_beacon_lobby hphase hbody ta, fun st hst => State.putEntry_ne _ hst,
        congrArg Entry.beacon (State.putEntry_self _), congrArg Entry.lastKind (State.putEntry_self _), rfl⟩
    · exact ⟨_, State.applyFrame_car_idle hrace hbody ta, fun st hst => State.putEntry_ne _ hst,
        (congrArg Entry.beacon (State.putEntry_self _)).trans rfl, congrArg Entry.car (State.putEntry_self _),
        congrArg Entry.lastKind (State.putEntry_self _), rfl⟩

/-! ## The start instant -/

/-- The starters of a race that starts now: one for each member of the roster (R153). -/
theorem State.start_at : s.start.standings.at st =
    if member (s.session.roster.getD 0) st then some (s.newStarter st) else none := Standings.at_buildAll _ _ _

theorem State.newStarter_lost (hpeer : st ≠ s.own) (hlost : (s.link.at st).presence = .lost) :
    s.newStarter st = { status := .lost, finish := none, heldAt := some (s.presentRecord st s.now).distance } :=
  if_pos ⟨hpeer, hlost⟩

theorem State.newStarter_running (hlives : st = s.own ∨ (s.link.at st).presence ≠ .lost) :
    s.newStarter st = { status := .running, finish := none, heldAt := none } :=
  if_neg fun h => hlives.elim h.1 fun hpresence => hpresence h.2

/-- Settles O26. -/
theorem startInstantStartsTheRace : Obligations.StartInstantStartsTheRace := by
  intro s roster start hreset hphase hroster hagreed hreached
  have hcause : s.startReached = true := by simp [State.startReached, hphase, State.passed, hagreed, reached, hreached]
  have hstarter : s.start.standings.at = fun st => if member roster st then some (s.newStarter st) else none := by
    funext st
    rw [State.start_at, hroster]
    rfl
  have hq := State.start_quiet (s := s)
  refine ⟨s.start, exec_caused (i := .startInstant) rfl hreset hcause, rfl, Port.occur_latched_self s.port .started none, hroster,
    hagreed, rfl, ?_, rfl, rfl, fun st hst => ?_,
    fun st hst hpeer hlost => ⟨(s.presentRecord st s.now).distance, ?_, rfl⟩, fun st hst hlives => ?_, rfl, rfl, rfl,
    fun st => Prox.cleared_at s.prox st, rfl, rfl, rfl, fun e he => Port.occur_latched_ne s.port none he, hq.pending,
    hq.store, hq.bus,
    hq.link, hq.clock, hq.table, rfl, hq.patterns⟩
  · show s.session.agreed.map (· + Config.raceLimit) = _
    rw [hagreed]; rfl
  · simp [hstarter, hst]
  · simp only [hstarter, if_pos hst, State.newStarter_lost hpeer hlost]
  · simp only [hstarter, if_pos hst, State.newStarter_running hlives]

end Sys2Proof.Machine
end

section

/-! Agreement: the latest proposal and entry to ARMED, the abort, and the re-evaluations of a countdown (R82, R93 to R99). -/

namespace Sys2Proof.Machine

variable {s t u : State} {st z : Station} {f : Frame} {roster : StationSet}

/-! ## The latest proposal -/

/-- Differences of times add up while they do not wrap (R46, assumption 16). -/
theorem tdiff_add {a b c : Time} (hlow : -2147483648 ≤ tdiff a b + tdiff b c) (hhigh : tdiff a b + tdiff b c < 2147483648) :
    tdiff a c = tdiff a b + tdiff b c := by
  have hsum : a - c = (a - b) + (b - c) := by bv_omega
  unfold tdiff at *
  rw [hsum, BitVec.toInt_add, Int.bmod_eq_of_le (by omega) (by omega)]

/-- Times of which any two lie less than 2^30 µs apart (R97). -/
def Close (l : List Time) : Prop := ∀ p ∈ l, ∀ q ∈ l, (tdiff p q).natAbs < 1073741824

/-- The one kept of two close times is one of them, and neither lies ahead of it (R97). -/
theorem later_cases (a b : Time) : later a b = a ∨ later a b = b := by
  unfold later
  split
  · exact .inr rfl
  · exact .inl rfl

theorem tdiff_later {a b : Time} (hclose : (tdiff a b).natAbs < 1073741824 ∧ (tdiff b a).natAbs < 1073741824) :
    tdiff a (later a b) ≤ 0 ∧ tdiff b (later a b) ≤ 0 := by
  have hback : tdiff a a = tdiff a b + tdiff b a := tdiff_add (by omega) (by omega)
  rw [tdiff_self] at hback
  unfold later
  split
  · rw [tdiff_self]; omega
  · rw [tdiff_self]; omega

theorem foldl_later_mem (l : List Time) : ∀ a, l.foldl later a ∈ a :: l := by
  induction l with
  | nil => simp
  | cons b l ih =>
    intro a
    obtain hkept | hin := List.mem_cons.1 (ih (later a b))
    · obtain h | h := later_cases a b <;> rw [List.foldl_cons, hkept, h] <;> simp
    · exact List.mem_cons_of_mem _ (List.mem_cons_of_mem _ hin)

/-- Of close times the last one kept is the latest (R97). -/
theorem tdiff_foldl_later (l : List Time) : ∀ a, Close (a :: l) → ∀ p ∈ a :: l, tdiff p (l.foldl later a) ≤ 0 := by
  induction l with
  | nil => simp
  | cons b l ih =>
    intro a hclose p hp
    have hmem : ∀ q ∈ later a b :: l, q ∈ a :: b :: l := by
      intro q hq
      obtain rfl | hq := List.mem_cons.1 hq
      · obtain h | h := later_cases a b <;> rw [h] <;> simp
      · simp [hq]
    have hrest := ih (later a b) fun p hp q hq => hclose p (hmem p hp) q (hmem q hq)
    have hlater := tdiff_later (a := a) (b := b) ⟨hclose a (by simp) b (by simp), hclose b (by simp) a (by simp)⟩
    have hkept := hrest (later a b) List.mem_cons_self
    have hbelow : ∀ q ∈ a :: b :: l, tdiff q (later a b) ≤ 0 → tdiff q (l.foldl later (later a b)) ≤ 0 := by
      intro q hq hle
      have hfirst := hclose q hq (later a b) (hmem _ List.mem_cons_self)
      have hsecond := hclose (later a b) (hmem _ List.mem_cons_self) _ (hmem _ (foldl_later_mem l (later a b)))
      rw [tdiff_add (b := later a b) (by omega) (by omega)]
      omega
    rw [List.mem_cons, List.mem_cons] at hp
    obtain rfl | rfl | hp := hp
    · exact hbelow _ (by simp) hlater.1
    · exact hbelow _ (by simp) hlater.2
    · exact hrest p (List.mem_cons_of_mem _ hp)

/-- The proposal held so far, once a station's recorded proposal is set against it (R97). -/
def Session.keepLater (x : Session) (held : Option Time) (st : Station) : Option Time :=
  match held, x.proposalOf st with
  | none, p => p
  | some a, none => some a
  | some a, some b => some (later a b)

theorem State.latestProposal_fold : s.latestProposal =
    (members (s.session.roster.getD 0)).foldl s.session.keepLater none := rfl

theorem Session.foldl_keepLater (x : Session) (l : List Station) : ∀ a : Time,
    (∀ z ∈ l, (x.proposalOf z).isSome = true) →
    l.foldl x.keepLater (some a) = some ((l.filterMap x.proposalOf).foldl later a) := by
  induction l with
  | nil => exact fun _ _ => rfl
  | cons z l ih =>
    intro a hsome
    obtain ⟨p, hp⟩ := Option.isSome_iff_exists.1 (hsome z List.mem_cons_self)
    have hkept : x.keepLater (some a) z = some (later a p) := by unfold Session.keepLater; rw [hp]
    rw [List.foldl_cons, hkept, ih _ fun y hy => hsome y (List.mem_cons_of_mem _ hy), List.filterMap_cons, hp]
    rfl

/-- With every proposal recorded, the latest is found by going through them in rising station order (R97). -/
theorem State.latestProposal_eq (hroster : s.session.roster = some roster) (hmember : member roster st = true)
    (hall : ∀ z, member roster z = true → (s.session.proposalOf z).isSome = true) :
    ∃ a l, (∀ p, p ∈ a :: l ↔ ∃ z, member roster z = true ∧ s.session.proposalOf z = some p) ∧
      s.latestProposal = some (l.foldl later a) := by
  have hin : ∀ z ∈ members roster, (s.session.proposalOf z).isSome = true := fun z hz => hall z ((mem_members _ _).1 hz)
  have hmem : ∀ p, p ∈ (members roster).filterMap s.session.proposalOf ↔
      ∃ z, member roster z = true ∧ s.session.proposalOf z = some p := fun p => by simp [List.mem_filterMap, mem_members]
  have hst := (mem_members roster st).2 hmember
  rw [State.latestProposal_fold, hroster, Option.getD_some]
  generalize members roster = present at *
  obtain - | ⟨x, xs⟩ := present
  · cases hst
  · obtain ⟨p, hp⟩ := Option.isSome_iff_exists.1 (hin x List.mem_cons_self)
    refine ⟨p, xs.filterMap s.session.proposalOf, fun q => ?_, ?_⟩
    · rw [← hmem q, List.filterMap_cons, hp]
    · have hfirst : s.session.keepLater none x = some p := hp
      rw [List.foldl_cons, hfirst, Session.foldl_keepLater _ _ _ fun z hz => hin z (List.mem_cons_of_mem _ hz)]

theorem sessionTag_cases (start : Time) : (sessionTag start).toNat = start.toNat / 1000 % 256 ∨
    (start.toNat / 1000 % 256 = 0 ∧ sessionTag start = 1) := by
  unfold sessionTag byteOf
  dsimp only
  split
  · next h => exact .inr ⟨by simpa using congrArg BitVec.toNat h, rfl⟩
  · exact .inl (by simp)

/-! ## Frames applied in a countdown -/

/-- A beacon applied in a countdown stands in its sender's entry, its proposal is recorded, and a re-evaluation follows (R61,
R93). -/
theorem State.applyFrame_beacon_countdown (hphase : s.session.phase = .proposing ∨ s.session.phase = .armed) {b : Beacon}
    (hbody : f.body = .beacon b) (ta : Time) : s.applyFrame f ta =
      ((s.putEntry f.sender ((s.table.at f.sender).withBeacon f.tag b)).recordProposal f.sender).reevaluate := by
  unfold State.applyFrame State.applyBeacon
  simp only [hbody]
  obtain h | h := hphase <;>
    · rw [State.standingsTold_idle (by simp [State.putEntry, h, Phase.inRace])]
      unfold State.sessionToldBeacon
      simp [State.putEntry, h]

theorem Session.inRoster_iff {x : Session} : x.inRoster st = true ↔ ∃ roster, x.roster = some roster ∧ member roster st = true := by
  unfold Session.inRoster
  rcases x.roster with - | roster <;> simp

/-- The state that a beacon leaves before its re-evaluation in a countdown: its entry, and its proposal recorded (R93). -/
theorem State.recordProposal_beacon {b : Beacon} (s : State) (f : Frame) :
    let r := (s.putEntry f.sender ((s.table.at f.sender).withBeacon f.tag b)).recordProposal f.sender
    r.table = s.table.put f.sender ((s.table.at f.sender).withBeacon f.tag b) ∧
    (∀ st, r.session.proposalOf st =
      if st = f.sender ∧ st ≠ s.own ∧ (∃ roster, s.session.roster = some roster ∧ member roster st = true) ∧
          s.session.proposalOf st = none then b.proposal
      else s.session.proposalOf st) ∧
    r = (s.setTable r.table).setSession { s.session with proposals := r.session.proposals } := by
  intro r
  obtain ⟨q, hmoves⟩ := State.recordProposal_moves
    (s := s.putEntry f.sender ((s.table.at f.sender).withBeacon f.tag b)) f.sender
  have hr : r = (s.putEntry f.sender ((s.table.at f.sender).withBeacon f.tag b)).setSession
    { s.session with proposals := q } := hmoves
  refine ⟨by rw [hr]; rfl, fun st => ?_, by rw [hr]; rfl⟩
  have hcarried : (s.putEntry f.sender ((s.table.at f.sender).withBeacon f.tag b)).carriedProposal f.sender = b.proposal := by
    unfold State.carriedProposal
    rw [State.putEntry_self]
    rfl
  rw [State.recordProposal_proposalOf]
  refine if_ctx_congr ⟨fun ⟨hst, hin, hne, hnone⟩ => ⟨hst, hne, Session.inRoster_iff.1 hin, hnone⟩,
    fun ⟨hst, hne, hin, hnone⟩ => ⟨hst, Session.inRoster_iff.2 hin, hne, hnone⟩⟩ (fun h => ?_) fun _ => rfl
  rw [h.1, hcarried]

section
variable {c : CarRecord} {e : Int} {ta : Time}

/-- The state with a car frame in its sender's entry (R62). -/
def State.putCar (s : State) (f : Frame) (c : CarRecord) (e : Int) (ta : Time) : State :=
  s.putEntry f.sender ((s.table.at f.sender).withCar f.tag c e ta)

theorem State.putCar_self : (s.putCar f c e ta).table.at f.sender = (s.table.at f.sender).withCar f.tag c e ta :=
  State.putEntry_self _

/-- A car frame does not count as a beacon in PROPOSING, nor in ARMED when it is of another session tag (R94, R95). -/
theorem State.countsAsBeacon_car (h : s.session.phase = .proposing ∨ f.tag ≠ s.session.tag) :
    (s.putCar f c e ta).memberAgrees roster f.sender = false := by
  have hcounts : ¬ (s.putCar f c e ta).countsAsBeacon f.sender = true := by
    rw [State.countsAsBeacon_iff, State.putCar_self]
    rintro (hkind | ⟨hphase, -, c', hcar⟩)
    · cases hkind
    · have htag := congrArg Prod.fst (Option.some.inj hcar)
      obtain hproposing | hother := h
      · cases hproposing.symm.trans hphase
      · exact hother htag
  unfold State.memberAgrees
  simp [hcounts]

/-- In ARMED one of the own session tag counts as a beacon (R95). -/
theorem State.memberAgrees_car (hphase : s.session.phase = .armed) (htag : f.tag = s.session.tag)
    (hagrees : s.memberAgrees roster f.sender = true) :
    (s.putCar f c e ta).memberAgrees roster f.sender = true := by
  have hcounts : (s.putCar f c e ta).countsAsBeacon f.sender = true := by
    rw [State.countsAsBeacon_iff, State.putCar_self]
    exact .inr ⟨hphase, rfl, c, by rw [htag]; rfl⟩
  unfold State.memberAgrees at hagrees ⊢
  rw [hcounts, State.putCar_self]
  simp only [Bool.and_eq_true] at hagrees
  rw [Bool.and_true, Bool.and_eq_true]
  exact ⟨hagrees.1.1, hagrees.2⟩

/-- A frame's sender apart, every member agrees as it did. -/
theorem State.memberAgrees_putEntry_ne (h : z ≠ st) (x : Entry) :
    (s.putEntry st x).memberAgrees roster z = s.memberAgrees roster z :=
  State.memberAgrees_of (s := s) rfl (State.putEntry_ne x h) rfl

theorem State.breach_car_aborts (hphase : s.session.phase = .proposing ∨ f.tag ≠ s.session.tag)
    (hroster : s.session.roster = some roster) (hmember : member roster f.sender = true) (hne : f.sender ≠ s.own) :
    (s.putCar f c e ta).breach ≠ none ∧
    (s.breach = none →
      (s.putCar f c e ta).breach = some (.member, some f.sender)) := by
  have hfails := State.countsAsBeacon_car (c := c) (e := e) (ta := ta) (roster := roster) hphase
  have hin : f.sender ∈ s.others roster := State.mem_others.2 ⟨hmember, hne⟩
  refine ⟨fun hnone => ?_, fun hnone => ?_⟩
  · have hagrees := (State.breach_none_iff.1 hnone).2.2 f.sender (by
      show f.sender ∈ s.others (s.session.roster.getD 0); rw [hroster]; exact hin)
    rw [show (s.putCar f c e ta).session.roster.getD 0 = roster by
      show s.session.roster.getD 0 = roster; rw [hroster]; rfl, hfails] at hagrees
    exact Bool.false_ne_true hagrees
  · obtain ⟨hclock, -, hagree⟩ := State.breach_none_iff.1 hnone
    rw [hroster, Option.getD_some] at hagree
    refine (State.breach_member_iff (s := s.putCar f c e ta) hclock).2 ?_
    show f.sender ∈ s.others (s.session.roster.getD 0) ∧ State.memberAgrees _ (s.session.roster.getD 0) _ = _ ∧
      ∀ z ∈ s.others (s.session.roster.getD 0), z < f.sender → State.memberAgrees _ (s.session.roster.getD 0) _ = _
    rw [hroster, Option.getD_some]
    exact ⟨hin, hfails, fun z hz hlt => (State.memberAgrees_putEntry_ne hlt.ne _).trans (hagree z hz)⟩

theorem State.breach_car_none (hphase : s.session.phase = .armed) (htag : f.tag = s.session.tag) (hnone : s.breach = none) :
    (s.putCar f c e ta).breach = none := by
  obtain ⟨hclock, hready, hagree⟩ := State.breach_none_iff.1 hnone
  refine State.breach_none_iff.2 ⟨hclock, hready, fun z hz => ?_⟩
  by_cases hsender : z = f.sender
  · subst hsender
    exact State.memberAgrees_car hphase htag (hagree _ hz)
  · exact (State.memberAgrees_putEntry_ne hsender _).trans (hagree z hz)

end

/-! ## The obligation, part by part -/

/-- When Condition B fails the cause is CLOCK, or the lowest-numbered failing member, or HOST (R96). -/
theorem State.breach_clock (hclock : s.clock.state ≠ .locked) : s.breach = some (.clock, none) := by
  unfold State.breach
  rw [if_pos hclock]

/-- Entry to ARMED takes the latest proposal (R97). -/
theorem State.enterArmed_agreed (hroster : s.session.roster = some roster) (hown : member roster s.own = true)
    (hall : ∀ st, member roster st = true → (s.session.proposalOf st).isSome = true) :
    ∃ start, s.latestProposal = some start ∧ (∃ st, member roster st = true ∧ s.session.proposalOf st = some start) ∧
      ((∀ a b, member roster a = true → member roster b = true → ∀ p q, s.session.proposalOf a = some p →
          s.session.proposalOf b = some q → (tdiff p q).natAbs < 1073741824) →
        ∀ st p, member roster st = true → s.session.proposalOf st = some p → tdiff p start ≤ 0) := by
  obtain ⟨a, l, hmem, hlatest⟩ := State.latestProposal_eq hroster hown hall
  refine ⟨_, hlatest, (hmem _).1 (foldl_later_mem l a), fun hclose st p hst hp => ?_⟩
  refine tdiff_foldl_later l a (fun p hp q hq => ?_) p ((hmem p).2 ⟨st, hst, hp⟩)
  obtain ⟨x, hx, hpx⟩ := (hmem p).1 hp
  obtain ⟨y, hy, hqy⟩ := (hmem q).1 hq
  exact hclose x y hx hy p q hpx hqy

/-- An abort latches ABORTED, and RULE_CHANGE and CLEARDOWN by the rule it resolves afresh (R85, R86, R99). -/
theorem State.abort_latches (cause : AbortCause) (who : Option Station) (e : Event) :
    (s.abort cause who).port.latched e = (s.port.latched e || decide (e = .aborted) ||
      (decide (e = .ruleChange) && decide ((s.abort cause who).session.rule ≠ s.session.rule)) ||
      (decide (e = .cleardown) && (s.abort cause who).session.cleardownMark)) := by
  have hlatched := (State.abort_regathered (s := s) cause who).latched e
  rw [hlatched]
  show (Port.latched (s.port.occur .aborted none) e || _ || (_ && _ && !false)) = _
  rw [Port.occur_latched, Bool.not_false, Bool.and_true]
  rfl

/-- A countdown that waits in ARMED, or in PROPOSING for a proposal, moves its lobby set alone (R82, R94). -/
theorem State.evaluateArmed_waits (hbreach : s.recomputeLobby.breach = none) : s.evaluateArmed = s.recomputeLobby := by
  unfold State.evaluateArmed
  simp only [hbreach]

/-- Settles O25. -/
theorem enteringArmed : Obligations.EnteringArmed := by
  refine ⟨fun s roster r hroster hrule => ?_, fun s roster hroster hown hall => ?_, fun s cause who => ?_,
    fun s hreset hphase => ?_⟩
  · intro meets
    have hmeets : ∀ st, s.memberAgrees roster st = true ↔ meets st := fun st => State.memberAgrees_iff hrule
    have hgetD : s.session.roster.getD 0 = roster := by rw [hroster]; rfl
    refine ⟨?_, State.breach_clock, fun st hclock => ?_⟩
    · rw [State.breach_none_iff, hgetD]
      simp only [State.mem_others, and_imp, hmeets]
    · rw [State.breach_member_iff hclock, hgetD, ← Bool.not_eq_true, hmeets]
      simp only [State.mem_others, and_imp, hmeets, and_assoc]
  · obtain ⟨start, hlatest, hproposed, hlast⟩ := State.enterArmed_agreed hroster hown hall
    have hgetD : s.latestProposal.getD 0 = start := by rw [hlatest]; rfl
    refine ⟨start, congrArg some hgetD, hproposed, hlast, rfl, sessionTag_ne_zero _, ?_,
      congrArg (fun start => some (gridRecord start)) hgetD, rfl, Port.occur_latched_self s.port .armed none, hroster, rfl, rfl,
      rfl, rfl, rfl⟩
    have htag : s.enterArmed.session.tag = sessionTag start := congrArg sessionTag hgetD
    rw [htag]
    exact sessionTag_cases start
  · intro t
    have h := State.abort_regathered (s := s) cause who
    have hsession : t.session = _ := h.session
    refine ⟨congrArg Session.phase hsession, (congrArg Session.ready hsession).trans rfl, congrArg Session.roster hsession,
      Session.proposalOf_none (congrArg Session.proposals hsession), congrArg Session.agreed hsession,
      congrArg Session.tag hsession, congrArg Session.held hsession, congrArg Session.abortHold hsession,
      congrArg Session.lastAbort hsession, h.motion, State.abort_latched cause who, h.lobbySet, h.rule, h.mark,
      State.abort_latches cause who, ?_⟩
    rw [h.motion]
    exact h.splits
  · intro u w
    have hrace : s.session.phase.inRace = false := by obtain h | h := hphase <;> rw [h] <;> rfl
    have hproposing : s.session.phase = .proposing → s.reevaluate = s.evaluateProposing := fun h => by
      unfold State.reevaluate; rw [h]
    have harmed : s.session.phase = .armed → s.reevaluate = s.evaluateArmed := fun h => by
      unfold State.reevaluate; rw [h]
    refine ⟨member_setOf _, rfl, fun cause st hbreach => ?_, fun hbreach h => ?_, fun hbreach hwaits => ?_,
      fun start hbreach h hall hstart => ?_, fun f b ta hbody => ?_,
      fun f c ta hbody => ⟨?_, fun roster hroster hmember hne => ?_⟩⟩
    · exact State.reevaluate_abort hphase (State.recomputeLobby_breach.symm.trans hbreach)
    · exact (harmed h).trans (State.evaluateArmed_waits hbreach)
    · obtain h | h := hphase
      · exact (hproposing h).trans (State.evaluateProposing_waits hbreach hwaits)
      · exact (harmed h).trans (State.evaluateArmed_waits hbreach)
    · rw [hproposing h]
      exact State.evaluateProposing_arms hreset h hbreach hall hstart
    · obtain ⟨htable, hproposals, hmoves⟩ := State.recordProposal_beacon (b := b) s f
      refine ⟨_, State.applyFrame_beacon_countdown hphase hbody ta, fun st hst => ?_, ?_, ?_, hproposals, hmoves⟩ <;> rw [htable]
      · exact Table.put_at_ne _ _ hst
      · rw [Table.put_at_self]; rfl
      · rw [Table.put_at_self]; rfl
    · exact ⟨_, State.applyFrame_car_idle hrace hbody ta, fun st hst => State.putEntry_ne _ hst,
        (congrArg Entry.beacon (State.putEntry_self _)).trans rfl, congrArg Entry.car (State.putEntry_self _),
        congrArg Entry.lastKind (State.putEntry_self _), rfl⟩
    · have happlied : s.applyFrame f ta = (s.putCar f c (s.newResidual f.sender f.tag c ta) ta).reevaluate :=
        State.applyFrame_car_idle hrace hbody ta
      intro t
      have ht : t = (s.putCar f c (s.newResidual f.sender f.tag c ta) ta).reevaluate := happlied
      refine ⟨fun hother => ?_, fun h htag hbreach => ?_⟩
      · obtain ⟨hbreaks, hsender⟩ := State.breach_car_aborts (c := c) (e := s.newResidual f.sender f.tag c ta) (ta := ta)
          hother hroster hmember hne
        obtain ⟨⟨cause, who⟩, hbreach⟩ := Option.ne_none_iff_exists'.1 hbreaks
        have haborts := ht.trans (State.reevaluate_abort
          (s := s.putCar f c (s.newResidual f.sender f.tag c ta) ta) hphase hbreach)
        have hsession := (State.abort_regathered
          (s := (s.putCar f c (s.newResidual f.sender f.tag c ta) ta).recomputeLobby) cause who).session
        rw [← haborts] at hsession
        refine ⟨congrArg Session.phase hsession, congrArg Session.roster hsession, congrArg Session.abortHold hsession, ?_,
          fun hheld => ?_⟩
        · rw [haborts]; exact State.abort_latched cause who
        · have hcause : (cause, who) = (.member, some f.sender) := Option.some.inj (hbreach.symm.trans (hsender hheld))
          exact (congrArg Session.lastAbort hsession).trans (congrArg some hcause)
      · have hstands := State.breach_car_none (c := c) (e := s.newResidual f.sender f.tag c ta) (ta := ta) h htag hbreach
        have hstays : t = (s.putCar f c (s.newResidual f.sender f.tag c ta) ta).recomputeLobby := by
          rw [ht]
          unfold State.reevaluate
          rw [show (s.putCar f c (s.newResidual f.sender f.tag c ta) ta).session.phase = .armed from h]
          exact State.evaluateArmed_waits (State.recomputeLobby_breach.trans hstands)
        rw [hstays]
        rfl

end Sys2Proof.Machine
end

section

/-! The race: its end by the deadline and the limit, finish claims, and how a starter is lost, returns, is DNF or is withdrawn
(R153 to R165). -/

namespace Sys2Proof.Machine

variable {s t u : State} {i : Instr} {st x : Station} {r : Starter} {f : Frame}

/-! ## Race over -/

theorem RaceStatus.open_iff {y : RaceStatus} : y.open = true ↔ y = .running ∨ y = .lost := by
  cases y <;> simp [RaceStatus.open]

theorem RaceStatus.stillRunning_eq (y : RaceStatus) : y.stillRunning = !y.final := by cases y <;> rfl

theorem Starter.close_eq (r : Starter) :
    r.close = if r.status = .running ∨ r.status = .lost then { r with status := .unfinished } else r := by
  unfold Starter.close
  simp only [RaceStatus.open_iff]

/-- The all-done condition (R163). -/
theorem State.allDone_iff : s.allDone = true ↔
    ∀ st r, s.standings.at st = some r → r.status = .finished ∨ r.status = .dnf ∨ r.status = .withdrawn := by
  unfold State.allDone
  rw [List.all_eq_true]
  refine ⟨fun h st r hr => ?_, fun h st _ => ?_⟩
  · have hst : (!r.status.stillRunning) = true := by simpa [hr] using h st (mem_stations st)
    rw [RaceStatus.stillRunning_eq, Bool.not_not] at hst
    exact (RaceStatus.final_iff _).1 hst
  · rcases hr : s.standings.at st with - | r
    · rfl
    · show (!r.status.stillRunning) = true
      rw [RaceStatus.stillRunning_eq, Bool.not_not]
      exact (RaceStatus.final_iff _).2 (h st r hr)

/-- A recomputed lobby set by the state that holds the links and the table (R81). -/
theorem State.recomputeLobby_gathers (h : t.straps = s.straps) (k : t.link = s.link) (e : t.table = s.table) :
    t.recomputeLobby = t.setSession { t.session with lobbySet := setOf s.gathers } := by
  unfold State.recomputeLobby
  rw [State.gathers_of h k e]

/-- What race over makes of the standings (R165). -/
def State.closing (s : State) (cause : EndCause) : Standings :=
  { s.standings with
    starters := mapAll (Option.map Starter.close) s.standings.starters, overAt := some s.now, cause := some cause }

/-- The standings at race over, with the final list (R165). -/
def State.closed (s : State) (cause : EndCause) : Standings :=
  { s.closing cause with final := some (State.formList (s.setStandings (s.closing cause)) s.motion.live s.now) }

theorem State.raceOver_eq (cause : EndCause) : s.raceOver cause =
    ((((s.setStandings (s.closed cause)).setSession { s.session with
      phase := .results, deadline := none, limit := none }).setProx s.prox.stopped).signal .raceOver).recomputeLobby := by
  unfold State.raceOver State.closed State.closing
  dsimp only [State.setStandings, State.setSession]

/-- Race over moves the standings, the session, the sweep timer and the latch alone (R165). -/
theorem State.raceOver_moves (cause : EndCause) : s.raceOver cause =
    (((s.setStandings (s.closed cause)).setSession { s.session with
        phase := .results, deadline := none, limit := none, lobbySet := setOf s.gathers }).setProx s.prox.stopped).setPort
      (s.port.occur .raceOver none) := by
  refine (State.raceOver_eq cause).trans ?_
  generalize s.closed cause = standings
  refine (State.recomputeLobby_gathers (s := s) ?_ ?_ ?_).trans ?_ <;> rfl

theorem State.raceOver_session (cause : EndCause) : (s.raceOver cause).session = { s.session with
    phase := .results, deadline := none, limit := none, lobbySet := setOf s.gathers } := by
  rw [State.raceOver_moves]; rfl

theorem State.raceOver_latched (cause : EndCause) (e : Event) :
    (s.raceOver cause).port.latched e = (s.port.latched e || decide (e = .raceOver)) := by
  rw [State.raceOver_moves]
  exact Port.occur_latched s.port .raceOver e none

/-- Settles O27. -/
theorem raceOverFixesTheResult : Obligations.RaceOverFixesTheResult := by
  intro i s instant hreset hrace hevent hreached
  have hpasses : ∀ d : Option Time, d = some instant → s.passed d = true := fun d hd => by
    rw [hd]; simp [State.passed, reached, hreached]
  let cause : EndCause := if s.allDone then .allDone else if s.passed s.session.deadline then .finishWindow else .raceLimit
  have hcause : s.endCause = some cause := by
    unfold State.endCause
    obtain ⟨-, h⟩ | ⟨-, h⟩ := hevent <;> have hp := hpasses _ h <;> simp only [hp, if_true, cause]
    · split <;> rfl
    · repeat' split
      all_goals rfl
  have hchecks : s.checkRaceEnd = s.raceOver cause := by
    unfold State.checkRaceEnd
    rw [if_pos hrace, hcause]
  have hq := State.raceOver_quiet (s := s) cause
  have hsession := State.raceOver_session (s := s) cause
  have hmoves := State.raceOver_moves (s := s) cause
  refine ⟨s.raceOver cause, ?_, congrArg Session.phase hsession, ?_, by rw [hmoves]; rfl, by rw [hmoves]; rfl, fun st => ?_,
    by rw [hmoves]; rfl, congrArg Session.deadline hsession, congrArg Session.limit hsession,
    (congrArg Session.roster hsession).trans rfl, (congrArg Session.agreed hsession).trans rfl,
    (congrArg Session.tag hsession).trans rfl, by rw [hmoves]; rfl, fun e he => ?_, hq.pending, hq.store, hq.bus,
    hq.link, hq.clock, hq.table, by rw [hmoves]; rfl, hq.patterns⟩
  · rw [← hchecks]
    obtain ⟨rfl, h⟩ | ⟨rfl, h⟩ := hevent
    · exact exec_caused (i := .finishDeadline) rfl hreset (by simp [State.deadlineReached, hrace, hpasses _ h])
    · exact exec_caused (i := .raceLimit) rfl hreset (by simp [State.limitReached, hrace, hpasses _ h])
  · rw [State.raceOver_latched]; simp
  · rw [State.raceOver_at]
    cases s.standings.at st with
    | none => rfl
    | some r => exact congrArg some r.close_eq
  · rw [State.raceOver_latched]; simp [he]

/-! ## Finish claims -/

section
variable {finish : Time} {tag : Byte}

theorem State.claimHolds_iff : s.claimHolds st finish tag = true ↔ s.session.phase.inRace = true ∧
    (∃ r, s.standings.at st = some r ∧ (r.status = .running ∨ r.status = .lost)) ∧ tag = s.session.tag ∧
      0 ≤ tdiff finish (s.session.agreed.getD 0) := by
  unfold State.claimHolds
  rcases s.standings.at st with - | r <;> simp [and_assoc, reached, RaceStatus.open_iff]

/-- The state in which a claim is taken, before the all-done condition is judged (R156, R163). -/
def State.claimed (s : State) (st : Station) (finish : Time) : State :=
  ((s.putStarter st { status := .finished, finish := some finish, heldAt := none }).setSession
    (s.session.noteFinish finish s.store.finishWindow)).setPort
      (if st = s.own then s.port else s.port.occur .peerFinished (some st))

theorem State.offerClaim_taken (h : s.claimHolds st finish tag = true) :
    s.offerClaim st finish tag = (s.claimed st finish).statusChanged := by
  unfold State.offerClaim
  rw [if_pos h]
  unfold State.claimed
  split <;> rfl

theorem State.claimed_session : (s.claimed st finish).session = s.session.noteFinish finish s.store.finishWindow := rfl

theorem State.claimed_at : (s.claimed st finish).standings.at st =
    some { status := .finished, finish := some finish, heldAt := none } := Standings.put_at_self _ _ _

theorem State.claimed_at_ne (h : x ≠ st) : (s.claimed st finish).standings.at x = s.standings.at x :=
  Standings.put_at_ne _ _ h

/-- A claim that is taken ends the race exactly where every other starter is FINISHED, DNF or WITHDRAWN (R163). -/
theorem State.claimed_allDone : (s.claimed st finish).allDone = true ↔ ∀ x r, x ≠ st → s.standings.at x = some r →
    r.status = .finished ∨ r.status = .dnf ∨ r.status = .withdrawn := by
  rw [State.allDone_iff]
  refine ⟨fun h x r hx hr => h x r ((State.claimed_at_ne hx).trans hr), fun h x r hr => ?_⟩
  by_cases hx : x = st
  · subst hx
    rw [State.claimed_at] at hr
    cases hr
    exact .inl rfl
  · exact h x r hx ((State.claimed_at_ne hx).symm.trans hr)

theorem Session.noteFinish_phase (y : Session) (finish : Time) (window : Nat) : (y.noteFinish finish window).phase = y.phase := by
  rw [Session.noteFinish_moves]

theorem Session.noteFinish_earliest (y : Session) (finish : Time) (window : Nat) :
    (y.noteFinish finish window).earliest = some (match y.earliest with
      | none => finish
      | some e => if 0 < tdiff e finish then finish else e) := by
  unfold Session.noteFinish
  rcases he : y.earliest with - | e
  · rfl
  · by_cases hlt : 0 < tdiff e finish <;> simp [hlt, he]

theorem Session.noteFinish_deadline (y : Session) (finish : Time) (window : Nat) :
    (y.noteFinish finish window).deadline = (match y.earliest with
      | none => some (finish + seconds window)
      | some e => if 0 < tdiff e finish then some (finish + seconds window) else y.deadline) := by
  unfold Session.noteFinish
  rcases y.earliest with - | e
  · rfl
  · by_cases hlt : 0 < tdiff e finish <;> simp [hlt]

/-- Race over by the all-done condition, where a status has changed in the race (R163). -/
theorem State.statusChanged_cases (hrace : s.session.phase.inRace = true) :
    (s.allDone = true ∧ s.statusChanged = s.raceOver .allDone) ∨ (s.allDone = false ∧ s.statusChanged = s) := by
  unfold State.statusChanged
  rw [hrace, Bool.true_and]
  cases s.allDone
  · exact .inr ⟨rfl, rfl⟩
  · exact .inl ⟨rfl, rfl⟩

theorem Phase.not_results_of_inRace {p : Phase} (h : p.inRace = true) : p ≠ .results := by
  rintro rfl
  cases h

/-- A finish claim that holds (R155, R156, R163). -/
theorem State.offerClaim_effects (h : s.claimHolds st finish tag = true) :
    (s.offerClaim st finish tag).standings.at st = some { status := .finished, finish := some finish, heldAt := none } ∧
    ((s.offerClaim st finish tag).session.phase = .results ↔ (s.claimed st finish).allDone = true) ∧
    ((s.claimed st finish).allDone = true → (s.offerClaim st finish tag) = (s.claimed st finish).raceOver .allDone) ∧
    ((s.claimed st finish).allDone = false → (s.offerClaim st finish tag) = s.claimed st finish) := by
  have hrace : (s.claimed st finish).session.phase.inRace = true := by
    rw [State.claimed_session, Session.noteFinish_phase]
    exact (State.claimHolds_iff.1 h).1
  rw [State.offerClaim_taken h]
  obtain ⟨hdone, hover⟩ | ⟨hdone, hstays⟩ := State.statusChanged_cases hrace
  · refine ⟨?_, ?_, fun _ => hover, fun hnot => ?_⟩
    · rw [hover, State.raceOver_at, State.claimed_at]; rfl
    · rw [hover, State.raceOver_session]; exact iff_of_true rfl hdone
    · rw [hdone] at hnot; cases hnot
  · refine ⟨?_, ?_, fun hall => ?_, fun _ => hstays⟩
    · rw [hstays, State.claimed_at]
    · rw [hstays, hdone]; exact iff_of_false (Phase.not_results_of_inRace hrace) Bool.false_ne_true
    · rw [hdone] at hall; cases hall

theorem State.claimed_latched (e : Event) : (s.claimed st finish).port.latched e =
    (s.port.latched e || (decide (e = .peerFinished) && decide (st ≠ s.own))) := by
  show (if st = s.own then s.port else s.port.occur .peerFinished (some st)).latched e = _
  by_cases hown : st = s.own
  · simp [hown]
  · rw [if_neg hown, Port.occur_latched]; simp [hown]

end

/-! ## Frames applied in a race -/

/-- Through a race and after it a re-evaluation leaves the standings (R82). -/
theorem State.reevaluate_standings (h : s.session.phase.hasStandings = true) : s.reevaluate.standings = s.standings := by
  unfold State.reevaluate
  cases hphase : s.session.phase with
  | racing | finished | results => rfl
  | offline | lobby | proposing | armed =>
    rw [hphase] at h
    cases h

theorem State.sessionToldBeacon_standings (h : s.session.phase.hasStandings = true) :
    (s.sessionToldBeacon st).standings = s.standings := by
  unfold State.sessionToldBeacon
  cases hphase : s.session.phase with
  | racing | finished | results => exact State.reevaluate_standings h
  | offline | lobby | proposing | armed =>
    rw [hphase] at h
    cases h

/-- A final record stands through race over (R154, R165). -/
theorem State.statusChanged_final (hr : s.standings.at st = some r) (hfinal : r.status.final = true) :
    s.statusChanged.standings.at st = some r := by
  unfold State.statusChanged
  split
  · rw [State.raceOver_at, hr, Option.map_some, Starter.close_of_final hfinal]
  · exact hr

section
variable (hrace : s.session.phase.inRace = true) (hpeer : f.sender ≠ s.own) (hr : s.standings.at f.sender = some r)
include hrace hpeer hr

/-- An apply that withdraws its sender (R160). -/
theorem State.standingsTold_withdraws (hopen : r.status.open = true) (hwithdraws : s.withdraws f = true) :
    (s.standingsTold f).standings.at f.sender = some { r with status := .withdrawn, heldAt := none } := by
  unfold State.standingsTold
  rw [hr]
  simp only [hrace, hopen, bne_iff_ne.2 hpeer, hwithdraws, Bool.and_self, if_true]
  exact State.statusChanged_final (Standings.put_at_self _ _ _) rfl

/-- An apply that does not: a car frame releases the held distance of a RUNNING starter (R127, R158). -/
theorem State.standingsTold_releases (hopen : r.status.open = true) (hstays : s.withdraws f = false) :
    (s.standingsTold f).standings.at f.sender = some (match f.body with
      | .beacon _ => r
      | .car _ => if r.status = .running then { r with heldAt := none } else r) := by
  unfold State.standingsTold
  rw [hr]
  simp only [hrace, hopen, bne_iff_ne.2 hpeer, hstays, Bool.and_self, if_true, Bool.false_eq_true, if_false]
  rcases hbody : f.body with b | c
  · exact hr
  · obtain hstatus | hstatus := RaceStatus.open_iff.1 hopen <;> rw [hstatus]
    · exact Standings.put_at_self _ _ _
    · exact hr

end

/-- A starter whose status is final is left (R154). -/
theorem State.standingsTold_final (hr : s.standings.at f.sender = some r) (hfinal : r.status.final = true) : s.standingsTold f = s := by
  unfold State.standingsTold
  rw [hr]
  simp [RaceStatus.not_open_of_final hfinal]

theorem State.withdraws_beacon {b : Beacon} (hbody : f.body = .beacon b) :
    s.withdraws f = true ↔ ¬ (b.phase = .armed ∧ f.tag = s.session.tag) := by
  unfold State.withdraws
  rw [hbody]
  simp [imp_iff_not_or]

theorem State.withdraws_car {c : CarRecord} (hbody : f.body = .car c) : s.withdraws f = true ↔ f.tag ≠ s.session.tag := by
  unfold State.withdraws
  rw [hbody]
  simp

/-- A beacon applied in a race, as its sender's record sees it (R61, R160). -/
theorem State.applyFrame_beacon_at (hrace : s.session.phase.inRace = true) {b : Beacon} (hbody : f.body = .beacon b) (ta : Time) :
    (s.applyFrame f ta).standings.at x = ((s.putEntry f.sender ((s.table.at f.sender).withBeacon f.tag b)).standingsTold
      f).standings.at x := by
  unfold State.applyFrame State.applyBeacon
  simp only [hbody]
  rw [State.sessionToldBeacon_standings]
  exact (State.standingsTold_evolves f).runsOn.race (Phase.hasStandings_of_inRace hrace)

/-- A car frame applied in a race, as its sender's record sees it (R62, R155, R160). -/
theorem State.applyFrame_car_at (hrace : s.session.phase.inRace = true) {c : CarRecord} (hbody : f.body = .car c) (ta : Time) :
    (s.applyFrame f ta).standings.at x =
      (((s.putCar f c (s.newResidual f.sender f.tag c ta) ta).offerFrom f c).standingsTold f).standings.at x := by
  unfold State.applyFrame State.applyCar
  simp only [hbody]
  rw [State.reevaluate_standings]
  · rfl
  · exact ((State.offerFrom_evolves f c).trans (State.standingsTold_evolves f)).runsOn.race (Phase.hasStandings_of_inRace hrace)

/-- What a frame applied in a race makes of the starter RUNNING or LOST that sent it (R155, R158, R160). -/
theorem State.applyFrame_starter (hrace : s.session.phase.inRace = true) (hpeer : f.sender ≠ s.own)
    (hr : s.standings.at f.sender = some r) (hopen : r.status = .running ∨ r.status = .lost) (ta : Time) :
    (∀ b, f.body = .beacon b → ¬ (b.phase = .armed ∧ f.tag = s.session.tag) →
      (s.applyFrame f ta).standings.at f.sender = some { r with status := .withdrawn, heldAt := none }) ∧
    (∀ b, f.body = .beacon b → b.phase = .armed → f.tag = s.session.tag →
      (s.applyFrame f ta).standings.at f.sender = some r) ∧
    (∀ c, f.body = .car c → f.tag ≠ s.session.tag →
      (s.applyFrame f ta).standings.at f.sender = some { r with status := .withdrawn, heldAt := none }) ∧
    (∀ c, f.body = .car c → f.tag = s.session.tag →
      (∀ finish, c.finish = some finish → 0 ≤ tdiff finish (s.session.agreed.getD 0) →
        (s.applyFrame f ta).standings.at f.sender = some { status := .finished, finish := some finish, heldAt := none }) ∧
      ((∀ finish, c.finish = some finish → ¬ 0 ≤ tdiff finish (s.session.agreed.getD 0)) →
        (s.applyFrame f ta).standings.at f.sender = some (if r.status = .running then { r with heldAt := none } else r))) := by
  have hstatus := RaceStatus.open_iff.2 hopen
  have hunclaimed : ∀ c, (∀ finish, c.finish = some finish → (s.putCar f c (s.newResidual f.sender f.tag c ta) ta).claimHolds
      f.sender finish f.tag = false) → (s.putCar f c (s.newResidual f.sender f.tag c ta) ta).offerFrom f c =
        s.putCar f c (s.newResidual f.sender f.tag c ta) ta := fun c hfails => by
    unfold State.offerFrom
    rcases hfinish : c.finish with - | finish
    · rfl
    · exact if_neg (by simp [hfails finish hfinish])
  refine ⟨fun b hbody hother => ?_, fun b hbody harmed htag => ?_, fun c hbody htag => ?_,
    fun c hbody htag => ⟨fun finish hfinish hlate => ?_, fun hearly => ?_⟩⟩
  · rw [State.applyFrame_beacon_at hrace hbody]
    exact State.standingsTold_withdraws (s := s.putEntry _ _) hrace hpeer hr hstatus ((State.withdraws_beacon hbody).2 hother)
  · rw [State.applyFrame_beacon_at hrace hbody]
    refine (State.standingsTold_releases (s := s.putEntry _ _) hrace hpeer hr hstatus ?_).trans ?_
    · rw [← Bool.not_eq_true, State.withdraws_beacon hbody, not_not]
      exact ⟨harmed, htag⟩
    · rw [hbody]
  · rw [State.applyFrame_car_at hrace hbody, hunclaimed c fun finish _ => ?_]
    · exact State.standingsTold_withdraws (s := s.putCar _ _ _ _) hrace hpeer hr hstatus ((State.withdraws_car hbody).2 htag)
    · rw [← Bool.not_eq_true, State.claimHolds_iff]
      exact fun h => htag h.2.2.1
  · have hclaim : (s.putCar f c (s.newResidual f.sender f.tag c ta) ta).claimHolds f.sender finish f.tag = true :=
      State.claimHolds_iff.2 ⟨hrace, ⟨r, hr, hopen⟩, htag, hlate⟩
    have hoffer : (s.putCar f c (s.newResidual f.sender f.tag c ta) ta).offerFrom f c =
        (s.putCar f c (s.newResidual f.sender f.tag c ta) ta).offerClaim f.sender finish f.tag := by
      unfold State.offerFrom
      rw [hfinish]
    have hfinished := (State.offerClaim_effects hclaim).1
    rw [State.applyFrame_car_at hrace hbody, hoffer, State.standingsTold_final hfinished rfl]
    exact hfinished
  · rw [State.applyFrame_car_at hrace hbody, hunclaimed c fun finish hfinish => ?_]
    · refine (State.standingsTold_releases (s := s.putCar _ _ _ _) hrace hpeer hr hstatus ?_).trans ?_
      · rw [← Bool.not_eq_true, State.withdraws_car hbody, not_not]
        exact htag
      · rw [hbody]
    · rw [← Bool.not_eq_true, State.claimHolds_iff]
      exact fun h => hearly finish hfinish h.2.2.2

/-! ## A starter at a window expiry -/

/-- What the judgement of its sender makes of a starter: LOST with its distance held, RUNNING again, or as it was (R157, R158). -/
def State.judgedStarter (s : State) (st : Station) (r : Starter) : Starter :=
  if r.status = .running ∧ ((s.link.at st).presence = .fading ∧ (s.link.at st).count.toNat < s.store.off ∧
      min ((s.link.at st).fade + 1) s.store.dropout = s.store.dropout) then
    { r with status := .lost, heldAt := some (s.presentRecord st s.now).distance }
  else if r.status = .lost ∧ (s.link.at st).presence = .lost ∧ s.store.on ≤ (s.link.at st).count.toNat then
    { r with status := .running }
  else r

theorem State.Judged.at_eq (h : s.Judged st r t) : t.standings.at st = some (s.judgedStarter st r) := by
  unfold State.judgedStarter
  split
  · next hlost => exact h.lost hlost.1 hlost.2
  · next hstays =>
    split
    · next hback => exact h.back hback.1 hback.2.1 hback.2.2
    · next hsame => exact h.stays hstays hsame

theorem State.Presents.judgedStarter (h : s.Presents st t) (hlink : t.link = s.link) :
    t.judgedStarter st r = s.judgedStarter st r := by
  unfold State.judgedStarter
  rw [hlink, h.store, h.presentRecord, h.now]

/-- A check is due for a starter LOST whose timeout has passed (R159). -/
theorem State.dnfDue_iff (hrace : s.session.phase.inRace = true) (hr : s.standings.at st = some r) : s.dnfDue st = true ↔
    r.status = .lost ∧ ∃ entered, (s.link.at st).lostAt = some entered ∧ s.dnfTimeout ≤ tdiff s.now entered := by
  unfold State.dnfDue
  rw [hr, hrace]
  rcases (s.link.at st).lostAt with - | entered <;> simp

/-- In a race and after it steering leaves the standings and the phase (R42, R82). -/
theorem State.setClockState_race (h : s.session.phase.hasStandings = true) (y : ClockState) :
    (s.setClockState y).standings = s.standings ∧ (s.setClockState y).session.phase = s.session.phase := by
  have hphase : ∀ u : State, u.session.phase.hasStandings = true → u.reevaluate.session.phase = u.session.phase := fun u hu => by
    unfold State.reevaluate
    cases hp : u.session.phase with
    | racing | finished | results => exact hp
    | offline | lobby | proposing | armed =>
      rw [hp] at hu
      cases hu
  unfold State.setClockState
  split
  · exact ⟨rfl, rfl⟩
  · exact ⟨State.reevaluate_standings h, hphase _ h⟩

theorem State.applyTarget_race (phase : Phase) (n : Int) : (s.applyTarget phase n).standings = s.standings ∧
    (s.applyTarget phase n).session.phase = s.session.phase := by
  unfold State.applyTarget
  split <;> exact ⟨rfl, rfl⟩

theorem State.steer_race (h : s.session.phase.hasStandings = true) (phase : Phase) (samples : List Int) :
    (s.steer phase samples).standings = s.standings ∧ (s.steer phase samples).session.phase = s.session.phase := by
  unfold State.steer
  split
  · exact ⟨rfl, rfl⟩
  split
  · exact State.setClockState_race h _
  · obtain ⟨hstandings, hphase⟩ := State.setClockState_race h
      (if (steeringTarget samples).natAbs ≤ s.store.lockBound then .locked else .drifting)
    obtain ⟨hstandings', hphase'⟩ := State.applyTarget_race (s := s.setClockState
      (if (steeringTarget samples).natAbs ≤ s.store.lockBound then .locked else .drifting)) phase (steeringTarget samples)
    exact ⟨hstandings'.trans hstandings, hphase'.trans hphase⟩

theorem State.handOff_race (h : s.session.phase.hasStandings = true) (phase : Phase) :
    (s.handOff phase).standings = s.standings ∧ (s.handOff phase).session.phase = s.session.phase :=
  State.steer_race (s := s.setLink (s.link.newWindow s.store.windowLength)) h phase s.link.usable

/-- A hand-off outside LOBBY moves C forward by at most the slew (R48). -/
theorem State.handOff_now {phase : Phase} (h : phase ≠ .lobby) :
    ∃ n : Int, 0 ≤ n ∧ n ≤ s.store.slew ∧ (s.handOff phase).now = s.now + BitVec.ofInt 32 n := by
  obtain ⟨n, hlow, hhigh, hk⟩ := Clock.steered_k (c := s.clock) (store := s.store) h s.link.usable
  refine ⟨n, hlow, hhigh, ?_⟩
  have hclock : (s.handOff phase).clock = s.clock.steered s.store phase s.link.usable := State.steer_clock _ _
  unfold State.now
  rw [hclock, Clock.steered_t, hk, ← BitVec.add_assoc]

theorem State.judgeSenders_evolves (phase : Phase) : s.Evolves (s.judgeSenders phase) :=
  foldl_evolves _ (fun _ _ => State.judgeSender_evolves _ _) _ _

theorem State.handOff_evolves (phase : Phase) : s.Evolves (s.handOff phase) :=
  (Move.link _).evolves.trans (State.steer_evolves _ _)

theorem State.judgedStarter_open (hopen : r.status.open = true) : (s.judgedStarter st r).status.open = true := by
  unfold State.judgedStarter
  repeat' split
  · rfl
  · rfl
  · exact hopen

theorem State.picked_presents : s.Presents st s.picked := ⟨rfl, rfl, rfl, rfl, rfl, rfl, rfl, rfl⟩

/-- The DNF check once the senders are judged, some microseconds later where it follows the steering (R159; assumption 4). -/
def State.DnfAfter (s : State) (st : Station) (r : Starter) (n : Int) : Prop :=
  (s.judgedStarter st r).status = .lost ∧ ∃ entered, (s.expiryJudged.link.at st).lostAt = some entered ∧
    s.dnfTimeout ≤ tdiff (s.now + BitVec.ofInt 32 n) entered

section
variable (hrace : s.session.phase.inRace = true) (hstore : s.store.InRange) (hr : s.standings.at st = some r)
  (hopen : r.status.open = true)
include hrace hstore hr hopen

/-- A window expiry whose DNF check comes first (R159; assumption 4). -/
theorem State.windowEvaluation_before (hplace : s.pick Config.dnfOrder 3 = 0) : s.windowEvaluation.standings.at st =
    some (if s.dnfDue st then { r with status := .dnf } else s.judgedStarter st r) := by
  have hshape : s.windowEvaluation = (s.picked.dnfCheck.judgeSenders s.session.phase).handOff s.session.phase := by
    unfold State.windowEvaluation State.dnfCheckAt
    simp [hplace]
  obtain ⟨hat, hpresents, hlink⟩ := State.dnfCheck_starter (s := s.picked) hr hopen
  rw [hshape]
  by_cases hdue : s.dnfDue st = true
  · rw [show s.picked.dnfDue st = true from hdue, if_pos rfl] at hat
    rw [hdue, if_pos rfl]
    have hrest : s.picked.dnfCheck.RunsOn ((s.picked.dnfCheck.judgeSenders s.session.phase).handOff s.session.phase) :=
      ((State.judgeSenders_evolves _).trans (State.handOff_evolves _)).runsOn
    have hchecks : s.picked.RunsOn s.picked.dnfCheck := (State.dnfCheckAt_evolves 0 0).runsOn
    exact hrest.final (hchecks.race (Phase.hasStandings_of_inRace hrace)) st _ rfl hat
  · have hpresents := hpresents ((Bool.not_eq_true (s.dnfDue st)).mp hdue)
    have hjudged := State.judgeSenders_starter (s := s.picked.dnfCheck) (by rw [hpresents.phase]; exact hrace)
      (by rw [hpresents.store]; exact hstore.off) (hpresents.starter.trans hr)
    have hphase : s.picked.dnfCheck.session.phase = s.session.phase := hpresents.phase
    rw [hphase] at hjudged
    rw [if_neg hdue, (State.handOff_race _ _).1, hjudged.at_eq, hpresents.judgedStarter hlink]
    · rfl
    · rw [hjudged.phase, hphase]
      exact Phase.hasStandings_of_inRace hrace

/-- A window expiry whose DNF check comes after the judgement, before the steering or after it (R159; assumption 4). -/
theorem State.windowEvaluation_after (hplace : s.pick Config.dnfOrder 3 ≠ 0) : ∃ n : Int, 0 ≤ n ∧ n ≤ s.store.slew ∧
    (s.DnfAfter st r n → s.windowEvaluation.standings.at st = some { s.judgedStarter st r with status := .dnf }) ∧
    (¬ s.DnfAfter st r n → s.windowEvaluation.standings.at st = some (s.judgedStarter st r)) := by
  have hjudges : s.expiryJudged = s.picked.judgeSenders s.session.phase := by
    unfold State.expiryJudged State.dnfCheckAt
    rw [if_neg hplace]
  have hjudged : s.picked.Judged st r s.expiryJudged := by
    rw [hjudges]
    exact State.judgeSenders_starter (s := s.picked) hrace hstore.off hr
  have hat : s.expiryJudged.standings.at st = some (s.judgedStarter st r) :=
    hjudged.at_eq.trans (congrArg some (State.picked_presents.judgedStarter rfl))
  have hopens := State.judgedStarter_open (s := s) (st := st) hopen
  have hrace' : s.expiryJudged.session.phase.inRace = true := by rw [hjudged.phase]; exact hrace
  have hnow : s.expiryJudged.now = s.now := by unfold State.now; rw [hjudged.clock]; rfl
  have hend : ∀ {u : State} {n : Int}, u.session.phase.inRace = true → u.standings.at st = some (s.judgedStarter st r) →
      (u.link.at st).lostAt = (s.expiryJudged.link.at st).lostAt → u.store = s.store → u.now = s.now + BitVec.ofInt 32 n →
      (s.DnfAfter st r n ↔ u.dnfDue st = true) := fun hu hat hlost hsame hclock => by
    rw [State.dnfDue_iff hu hat, hlost, hclock]
    unfold State.dnfTimeout
    rw [hsame]
    rfl
  have hlt : s.pick Config.dnfOrder 3 < 3 := Nat.mod_lt _ (by decide)
  obtain hplace | hplace : s.pick Config.dnfOrder 3 = 1 ∨ s.pick Config.dnfOrder 3 = 2 := by omega
  · have hshape : s.windowEvaluation = s.expiryJudged.dnfCheck.handOff s.session.phase := by
      rw [hjudges]
      unfold State.windowEvaluation State.dnfCheckAt
      simp [hplace]
    have hiff := hend (n := 0) hrace' hat rfl hjudged.store (by rw [hnow]; simp)
    obtain ⟨hchecked, -, -⟩ := State.dnfCheck_starter hat hopens
    have hchecks : s.expiryJudged.RunsOn s.expiryJudged.dnfCheck := (State.dnfCheckAt_evolves 0 0).runsOn
    have hstands := (State.handOff_race (hchecks.race (Phase.hasStandings_of_inRace hrace')) s.session.phase).1
    refine ⟨0, le_refl _, Int.natCast_nonneg _, fun hdue => ?_, fun hdue => ?_⟩
    · rw [hshape, hstands, hchecked, if_pos (hiff.1 hdue)]
    · rw [hshape, hstands, hchecked, if_neg (fun h => hdue (hiff.2 h))]
  · have hshape : s.windowEvaluation = (s.expiryJudged.handOff s.session.phase).dnfCheck := by
      rw [hjudges]
      unfold State.windowEvaluation State.dnfCheckAt
      simp [hplace]
    obtain ⟨hstands, hphase⟩ := State.handOff_race (Phase.hasStandings_of_inRace hrace') s.session.phase
    obtain ⟨n, hlow, hhigh, hclock⟩ := State.handOff_now (s := s.expiryJudged) (phase := s.session.phase)
      (fun h => by rw [h] at hrace; cases hrace)
    have hat' : (s.expiryJudged.handOff s.session.phase).standings.at st = some (s.judgedStarter st r) := by
      rw [hstands]; exact hat
    have hiff := hend (n := n) (by rw [hphase]; exact hrace') hat'
      (by rw [State.handOff_link, Link.newWindow_at]) ((State.handOff_keeps _).store.trans hjudged.store) (by rw [hclock, hnow])
    obtain ⟨hchecked, -, -⟩ := State.dnfCheck_starter hat' hopens
    rw [show s.expiryJudged.store = s.store from hjudged.store] at hhigh
    refine ⟨n, hlow, hhigh, fun hdue => ?_, fun hdue => ?_⟩
    · rw [hshape, hchecked, if_pos (hiff.1 hdue)]
    · rw [hshape, hchecked, if_neg (fun h => hdue (hiff.2 h))]

end

/-- A starter whose sender falls LOST at the expiry entered LOST at C, and one whose sender stays LOST entered it before (R157). -/
theorem State.expiryJudged_entered (hrace : s.session.phase.inRace = true) (hstore : s.store.InRange)
    (hr : s.standings.at st = some r) (hplace : s.pick Config.dnfOrder 3 ≠ 0) :
    (s.fallsLost st → (s.expiryJudged.link.at st).lostAt = some s.now) ∧
    ((s.link.at st).presence = .lost → (s.link.at st).count.toNat < s.store.on →
      (s.expiryJudged.link.at st).lostAt = (s.link.at st).lostAt) := by
  have hjudged : s.picked.Judged st r s.expiryJudged := by
    unfold State.expiryJudged State.dnfCheckAt
    rw [if_neg hplace]
    exact State.judgeSenders_starter (s := s.picked) hrace hstore.off hr
  exact ⟨hjudged.entered, hjudged.away⟩

/-- Timeouts are longer than the clock's largest step (R48, R159). -/
theorem State.dnfTimeout_ge (hstore : s.store.InRange) : 2000000 ≤ s.dnfTimeout := by
  have hlow := hstore.dnfTimeout.1
  unfold State.dnfTimeout
  omega

section
variable (hrace : s.session.phase.inRace = true) (hstore : s.store.InRange) (hr : s.standings.at st = some r)
include hrace hstore hr

/-- A starter RUNNING whose sender falls LOST is LOST, its distance held (R157). -/
theorem State.windowEvaluation_falls (hstatus : r.status = .running) (hfalls : s.fallsLost st) :
    s.windowEvaluation.standings.at st =
      some { r with status := .lost, heldAt := some (s.presentRecord st s.now).distance } := by
  have hopen : r.status.open = true := RaceStatus.open_iff.2 (.inl hstatus)
  have hjudged : s.judgedStarter st r = { r with status := .lost, heldAt := some (s.presentRecord st s.now).distance } :=
    if_pos ⟨hstatus, hfalls⟩
  by_cases hplace : s.pick Config.dnfOrder 3 = 0
  · rw [State.windowEvaluation_before hrace hstore hr hopen hplace, if_neg, hjudged]
    rw [State.dnfDue_iff hrace hr, hstatus]
    nofun
  · obtain ⟨n, hlow, hhigh, -, hstays⟩ := State.windowEvaluation_after hrace hstore hr hopen hplace
    rw [← hjudged]
    refine hstays ?_
    rintro ⟨-, entered, hentered, htimeout⟩
    rw [(State.expiryJudged_entered hrace hstore hr hplace).1 hfalls] at hentered
    cases hentered
    have hslew := hstore.slew.2
    have hlong := State.dnfTimeout_ge hstore
    rw [tdiff_add_self, toInt_ofInt_of_le hlow (by omega)] at htimeout
    omega

/-- A starter that stays RUNNING keeps its record (R157). -/
theorem State.windowEvaluation_runs (hstatus : r.status = .running) (hstays : ¬ s.fallsLost st) :
    s.windowEvaluation.standings.at st = some r := by
  have hopen : r.status.open = true := RaceStatus.open_iff.2 (.inl hstatus)
  have hjudged : s.judgedStarter st r = r :=
    (if_neg fun h => hstays h.2).trans (if_neg fun h => by rw [hstatus] at h; cases h.1)
  by_cases hplace : s.pick Config.dnfOrder 3 = 0
  · rw [State.windowEvaluation_before hrace hstore hr hopen hplace, if_neg, hjudged]
    rw [State.dnfDue_iff hrace hr, hstatus]
    nofun
  · obtain ⟨n, -, -, -, hkeeps⟩ := State.windowEvaluation_after hrace hstore hr hopen hplace
    refine (hkeeps ?_).trans (congrArg some hjudged)
    rintro ⟨hlost, -⟩
    rw [hjudged, hstatus] at hlost
    cases hlost

/-- A LOST starter whose sender returns is RUNNING again, or DNF where its timeout had passed (R158, R159). -/
theorem State.windowEvaluation_returns (hstatus : r.status = .lost) (hlost : (s.link.at st).presence = .lost)
    (hcount : s.store.on ≤ (s.link.at st).count.toNat) {entered : Time} (hentered : (s.link.at st).lostAt = some entered) :
    s.windowEvaluation.standings.at st = some { r with status := .running } ∨
      (s.dnfTimeout ≤ tdiff s.now entered ∧ s.windowEvaluation.standings.at st = some { r with status := .dnf }) := by
  have hopen : r.status.open = true := RaceStatus.open_iff.2 (.inr hstatus)
  have hjudged : s.judgedStarter st r = { r with status := .running } :=
    (if_neg fun h => by rw [hstatus] at h; cases h.1).trans (if_pos ⟨hstatus, hlost, hcount⟩)
  by_cases hplace : s.pick Config.dnfOrder 3 = 0
  · rw [State.windowEvaluation_before hrace hstore hr hopen hplace]
    by_cases hdue : s.dnfDue st = true
    · obtain ⟨-, instant, hinstant, htimeout⟩ := (State.dnfDue_iff hrace hr).1 hdue
      cases hentered.symm.trans hinstant
      exact .inr ⟨htimeout, by rw [if_pos hdue]⟩
    · exact .inl (by rw [if_neg hdue, hjudged])
  · obtain ⟨n, -, -, -, hkeeps⟩ := State.windowEvaluation_after hrace hstore hr hopen hplace
    refine .inl ((hkeeps ?_).trans (congrArg some hjudged))
    rintro ⟨hdue, -⟩
    rw [hjudged] at hdue
    cases hdue

/-- A starter that stays LOST is DNF once its timeout has passed at the check, within the slew (R159; assumption 4). -/
theorem State.windowEvaluation_waits (hstatus : r.status = .lost) (hlost : (s.link.at st).presence = .lost)
    (hcount : (s.link.at st).count.toNat < s.store.on) {entered : Time} (hentered : (s.link.at st).lostAt = some entered) :
    (s.dnfTimeout ≤ tdiff s.now entered → tdiff s.now entered < 2147483147 →
      s.windowEvaluation.standings.at st = some { r with status := .dnf }) ∧
    (0 ≤ tdiff s.now entered → tdiff s.now entered + s.store.slew < s.dnfTimeout →
      s.windowEvaluation.standings.at st = some r) := by
  have hopen : r.status.open = true := RaceStatus.open_iff.2 (.inr hstatus)
  have hjudged : s.judgedStarter st r = r :=
    (if_neg fun h => by rw [hstatus] at h; cases h.1).trans (if_neg fun h => absurd h.2.2 (not_le.2 hcount))
  have hlong := State.dnfTimeout_ge hstore
  have hslew := hstore.slew.2
  by_cases hplace : s.pick Config.dnfOrder 3 = 0
  · have hdue : s.dnfDue st = true ↔ s.dnfTimeout ≤ tdiff s.now entered := by
      rw [State.dnfDue_iff hrace hr, hentered]
      simp [hstatus]
    rw [State.windowEvaluation_before hrace hstore hr hopen hplace]
    exact ⟨fun h _ => by rw [if_pos (hdue.2 h)], fun _ h => by rw [if_neg (fun h' => by have := hdue.1 h'; omega), hjudged]⟩
  · obtain ⟨n, hlow, hhigh, hchecks, hkeeps⟩ := State.windowEvaluation_after hrace hstore hr hopen hplace
    have hpast : tdiff (s.now + BitVec.ofInt 32 n) s.now = n := by
      rw [tdiff_add_self, toInt_ofInt_of_le hlow (by omega)]
    have hafter : s.DnfAfter st r n ↔ s.dnfTimeout ≤ tdiff (s.now + BitVec.ofInt 32 n) entered := by
      unfold State.DnfAfter
      rw [hjudged, (State.expiryJudged_entered hrace hstore hr hplace).2 hlost hcount, hentered]
      simp [hstatus]
    rw [hafter] at hchecks hkeeps
    rw [hjudged] at hchecks hkeeps
    have hsum : 0 ≤ tdiff s.now entered → tdiff s.now entered < 2147483147 →
        tdiff (s.now + BitVec.ofInt 32 n) entered = n + tdiff s.now entered := fun hge hlt => by
      rw [tdiff_add (b := s.now) (by omega) (by omega), hpast]
    have htimeout : s.dnfTimeout ≤ 30000000 := by
      have h := hstore.dnfTimeout.2
      unfold State.dnfTimeout
      omega
    exact ⟨fun h hlt => hchecks (by rw [hsum (by omega) hlt]; omega),
      fun hge h => hkeeps (by rw [hsum hge (by omega)]; omega)⟩

end

/-- Settles O28. -/
theorem claimsAreTakenOnce : Obligations.ClaimsAreTakenOnce := by
  refine ⟨fun s st finish tag => ⟨State.claimHolds_iff, fun h => if_neg (by simp [h]), fun h => ?_⟩,
    fun s st r hreset hwindow hrace hstore hr => ?_, fun s f ta r hrace hpeer hr hopen => ?_⟩
  · obtain ⟨hat, hresults, hover, hstays⟩ := State.offerClaim_effects h
    have hphase : (s.claimed st finish).session.phase ≠ .results := by
      rw [State.claimed_session, Session.noteFinish_phase]
      exact Phase.not_results_of_inRace (State.claimHolds_iff.1 h).1
    have hsession : (s.offerClaim st finish tag).session.earliest = (s.claimed st finish).session.earliest ∧
        (s.offerClaim st finish tag).session.deadline = (if (s.offerClaim st finish tag).session.phase = .results then none
          else (s.claimed st finish).session.deadline) := by
      cases hall : (s.claimed st finish).allDone
      · rw [hstays hall, if_neg hphase]
        exact ⟨rfl, rfl⟩
      · rw [hover hall, State.raceOver_session]
        exact ⟨rfl, rfl⟩
    refine ⟨hat, ?_, ?_, ?_, hresults.trans State.claimed_allDone⟩
    · cases hall : (s.claimed st finish).allDone
      · rw [hstays hall, State.claimed_latched]; simp
      · rw [hover hall, State.raceOver_latched, State.claimed_latched]; simp
    · refine (hsession.1.trans (Session.noteFinish_earliest _ _ _)).trans ?_
      cases s.session.earliest <;> rfl
    · refine hsession.2.trans (if_congr Iff.rfl rfl ((Session.noteFinish_deadline _ _ _).trans ?_))
      cases s.session.earliest <;> rfl
  · intro x lost timeout
    refine ⟨s.windowEvaluation, exec_caused (i := .windowExpiry) rfl hreset (by simp [State.windowOver, hwindow]),
      fun hstatus hfalls => State.windowEvaluation_falls hrace hstore hr hstatus hfalls,
      fun hstatus hstays => State.windowEvaluation_runs hrace hstore hr hstatus hstays,
      fun entered hstatus hlost hentered => ⟨fun hcount => ?_, fun hcount => ?_, fun hcount => ?_⟩⟩
    · exact State.windowEvaluation_returns hrace hstore hr hstatus hlost hcount hentered
    · exact (State.windowEvaluation_waits hrace hstore hr hstatus hlost hcount hentered).1
    · exact (State.windowEvaluation_waits hrace hstore hr hstatus hlost hcount hentered).2
  · intro after
    obtain ⟨hwithdraws, harmed, hother, hcar⟩ := State.applyFrame_starter hrace hpeer hr hopen ta
    refine ⟨hwithdraws, harmed, hother, fun c hbody htag => ?_⟩
    obtain ⟨hclaims, hreleases⟩ := hcar c hbody htag
    rcases hfinish : c.finish with - | finish
    · exact hreleases (by rw [hfinish]; nofun)
    · by_cases hlate : 0 ≤ tdiff finish (s.session.agreed.getD 0)
      · show ite _ _ _
        rw [if_pos hlate]
        exact hclaims finish hfinish hlate
      · show ite _ _ _
        rw [if_neg hlate]
        refine hreleases fun y hy => ?_
        cases hfinish.symm.trans hy
        exact hlate

end Sys2Proof.Machine
end

section

/-! The own car: what a post stores, and the own finish (R109 to R114, R156, R163). -/

namespace Sys2Proof.Machine

variable {s t u : State} {p : CarPost} {finish : Time}

/-! ## The three kinds of post -/

theorem State.postKind_after (h : s.liveFinish = some finish) : s.postKind p = .after := by
  unfold State.liveFinish at h
  unfold State.postKind
  rcases hlive : s.motion.live with - | c <;> rw [hlive] at h
  · cases h
  · simp [CarRecord.finished, show c.finish = some finish from h]

/-- Before the own finish a post is the own finish exactly where it carries FINISHED in RACING (R113). -/
theorem State.postKind_before (h : s.liveFinish = none) :
    s.postKind p = if p.flags.getLsbD 3 = true ∧ s.session.phase = .racing then .finish else .plain := by
  have hkind : s.postKind p = if postFinished p && s.session.phase == .racing then .finish else .plain := by
    unfold State.liveFinish at h
    unfold State.postKind
    cases hlive : s.motion.live with
    | none => rfl
    | some c =>
      rw [hlive] at h
      simp [CarRecord.finished, show c.finish = none from h]
  rw [hkind]
  simp [postFinished]

/-! ## The record time -/

theorem State.timeClamped_iff : s.timeClamped p = true ↔ s.session.phase.inRace = true ∧
    tdiff (s.now - BitVec.ofNat 32 (clampInt 0 20000 p.age.toInt).toNat) (s.session.agreed.getD 0) < 0 := by
  unfold State.timeClamped State.postTime postAge
  rw [Bool.and_eq_true, decide_eq_true_eq]

theorem State.recordTimeOf_early (h : s.timeClamped p = true) : s.recordTimeOf p = s.session.agreed.getD 0 := if_pos h

theorem State.recordTimeOf_late (h : ¬ s.timeClamped p = true) :
    s.recordTimeOf p = s.now - BitVec.ofNat 32 (clampInt 0 20000 p.age.toInt).toNat := if_neg h

/-- In RACING and FINISHED a record time is not before the agreed start (R112). -/
theorem State.recordTimeOf_ge (hrace : s.session.phase.inRace = true) :
    0 ≤ tdiff (s.recordTimeOf p) (s.session.agreed.getD 0) := by
  by_cases hearly : s.timeClamped p = true
  · rw [State.recordTimeOf_early hearly, tdiff_self]
  · rw [State.recordTimeOf_late hearly]
    rw [State.timeClamped_iff] at hearly
    exact not_lt.1 fun h => hearly ⟨hrace, h⟩

/-- What a post that is the own finish, or comes after it, marks as clamped (R110, assumption 18). -/
theorem State.postClamped_finished (h : s.postKind p ≠ .plain) : s.postClamped p = true ↔
    ((clampInt 0 20000 p.age.toInt).toNat : Int) ≠ p.age.toInt ∨ s.timeClamped p = true ∨
      min p.lap.toNat s.laps ≠ p.lap.toNat ∨ min p.position.toNat (s.courseLength - 1) ≠ p.position.toNat := by
  have hmark : s.postClamped p = (ageClamped p || s.timeClamped p || s.track.placeClamped p) := by
    unfold State.postClamped
    cases hkind : s.postKind p
    · exact Bool.or_false _
    · exact Bool.or_false _
    · exact absurd hkind h
  rw [hmark]
  simp only [Bool.or_eq_true, ageClamped, Track.placeClamped, bne_iff_ne, or_assoc]
  exact or_congr_right (or_congr_right or_comm)

theorem State.postClamped_plain (h : s.postKind p = .plain) : s.postClamped p = true ↔
    ((clampInt 0 20000 p.age.toInt).toNat : Int) ≠ p.age.toInt ∨ s.timeClamped p = true ∨
      min p.lap.toNat s.laps ≠ p.lap.toNat ∨ min p.position.toNat (s.courseLength - 1) ≠ p.position.toNat ∨
      s.track.postedDistance p ≠ s.track.postedRaw p ∨ (p.flags.getLsbD 3 = true ∧ s.session.phase = .armed) := by
  have hmark : s.postClamped p = (ageClamped p || s.timeClamped p || s.track.placeClamped p ||
      (s.track.postedDistance p != s.track.postedRaw p || (postFinished p && s.session.phase == .armed))) := by
    unfold State.postClamped
    rw [h]
  rw [hmark]
  simp only [Bool.or_eq_true, Bool.and_eq_true, beq_iff_eq, ageClamped, Track.placeClamped, bne_iff_ne, or_assoc]
  exact or_congr_right (or_congr_right or_left_comm)

theorem markByte_post (clamped : Bool) : markByte [clamped, false] = (if clamped then 1#8 else 0#8) ∧
    markByte [clamped, true] = (if clamped then 3#8 else 2#8) := by
  revert clamped; decide

/-! ## Posts that only store a record -/

theorem State.postCar_takes (h : s.session.phase = .armed ∨ s.session.phase.inRace = true) : State.postCar p s = s.takePost p := by
  unfold State.postCar
  obtain h | h := h
  · rw [h]
  · cases hphase : s.session.phase with
    | armed | racing | finished => rfl
    | offline | lobby | proposing | results =>
      rw [hphase] at h
      cases h

/-- A post that is not the own finish replaces the live copy and nothing else (R110). -/
theorem State.takePost_stores (h : s.postKind p ≠ .finish) : s.takePost p =
    (s.setLive (s.postedRecord p)).report (postBytes (s.postedRecord p) (s.postClamped p)) := by
  unfold State.takePost State.afterPost
  dsimp only
  cases hkind : s.postKind p
  · exact absurd hkind h
  · rfl
  · rfl

/-- Settles O31. -/
theorem postCarStoresTheRecord : Obligations.PostCarStoresTheRecord := by
  refine ⟨fun p s hhears hphase hlive hplain => ?_, fun p s finish hhears hphase hlive => ?_⟩
  · intro age early lap position raw d
    have hkind : s.postKind p = .plain := by
      rw [State.postKind_before hlive, if_neg]
      rintro ⟨hflag, hracing⟩
      obtain h | h := hplain
      · rw [h] at hflag; cases hflag
      · exact h hracing
    have hjudge := (State.postCar_takes (p := p) hphase).trans (State.takePost_stores (by rw [hkind]; nofun))
    have hlap : (s.postedRecord p).lap = BitVec.ofNat 8 (d / s.courseLength) := by
      simp only [State.postedRecord, hkind, if_true]; rfl
    have hposition : (s.postedRecord p).position = BitVec.ofNat 24 (d % s.courseLength) := by
      simp only [State.postedRecord, hkind, if_true]; rfl
    have hfinish : (s.postedRecord p).finish = none := by simp only [State.postedRecord, hkind]
    have hbytes : postBytes (s.postedRecord p) (s.postClamped p) = be4 (s.postedRecord p).recordTime ++
        [(s.postedRecord p).lap] ++ be3 (s.postedRecord p).position ++ [if s.postClamped p then 1#8 else 0#8] ++ [0, 0, 0, 0] := by
      unfold postBytes CarRecord.finished
      rw [hfinish, ← (markByte_post _).1]
      rfl
    refine ⟨s.postedRecord p, s.postClamped p, hlap, hposition, rfl, rfl, rfl, rfl, rfl, rfl, hfinish,
      fun h => State.recordTimeOf_early (State.timeClamped_iff.2 h),
      fun h => State.recordTimeOf_late fun h' => h (State.timeClamped_iff.1 h'), ?_, ?_⟩
    · rw [State.postClamped_plain hkind, State.timeClamped_iff]
      rfl
    · rw [← hbytes]
      exact exec_report rfl hhears hjudge
  · intro age early
    have hkind : s.postKind p = .after := State.postKind_after hlive
    have hjudge := (State.postCar_takes (p := p) hphase).trans (State.takePost_stores (by rw [hkind]; nofun))
    have hlap : (s.postedRecord p).lap = BitVec.ofNat 8 s.laps := by simp [State.postedRecord, hkind]; rfl
    have hposition : (s.postedRecord p).position = 0 := by simp [State.postedRecord, hkind]
    have hfinish : (s.postedRecord p).finish = some finish := by simp [State.postedRecord, hkind, hlive]
    have hbytes : postBytes (s.postedRecord p) (s.postClamped p) = be4 (s.postedRecord p).recordTime ++
        [(s.postedRecord p).lap] ++ be3 (s.postedRecord p).position ++ [if s.postClamped p then 3#8 else 2#8] ++ be4 finish := by
      unfold postBytes CarRecord.finished
      rw [hfinish, ← (markByte_post _).2]
      rfl
    refine ⟨s.postedRecord p, s.postClamped p, hfinish, hlap, hposition, rfl, rfl, rfl, rfl, rfl, rfl,
      fun h => State.recordTimeOf_early (State.timeClamped_iff.2 h),
      fun h => State.recordTimeOf_late fun h' => h (State.timeClamped_iff.1 h'), ?_, ?_⟩
    · rw [State.postClamped_finished (by rw [hkind]; nofun), State.timeClamped_iff]
    · rw [← hbytes]
      exact exec_report rfl hhears hjudge

/-! ## The own finish -/

theorem State.raceOver_rest (cause : EndCause) : (s.raceOver cause).motion = s.motion ∧
    (s.raceOver cause).prox = s.prox.stopped ∧ (s.raceOver cause).port.details = s.port.details := by
  rw [State.raceOver_moves]
  exact ⟨rfl, rfl, rfl⟩

/-- What the own finish claim leaves: no event but RACE_OVER, and nothing of the session but its end (R156, R163). -/
theorem State.offerClaim_own {tag : Byte} (h : s.claimHolds s.own finish tag = true) :
    (s.offerClaim s.own finish tag).motion = s.motion ∧
    ((s.offerClaim s.own finish tag).prox = s.prox ∨ (s.offerClaim s.own finish tag).prox = s.prox.stopped) ∧
    (s.offerClaim s.own finish tag).session.roster = s.session.roster ∧
    (s.offerClaim s.own finish tag).session.agreed = s.session.agreed ∧
    (s.offerClaim s.own finish tag).session.tag = s.session.tag ∧
    ((s.offerClaim s.own finish tag).session.phase = .results ∨
      (s.offerClaim s.own finish tag).session.phase = s.session.phase) ∧
    (∀ e, (s.offerClaim s.own finish tag).port.latched e = (s.port.latched e ||
      (decide (e = .raceOver) && decide ((s.offerClaim s.own finish tag).session.phase = .results)))) ∧
    (s.offerClaim s.own finish tag).port.details = s.port.details := by
  obtain ⟨-, -, hover, hstays⟩ := State.offerClaim_effects h
  have hport : (s.claimed s.own finish).port = s.port := if_pos rfl
  have hnoted : (s.claimed s.own finish).session.roster = s.session.roster ∧
      (s.claimed s.own finish).session.agreed = s.session.agreed ∧ (s.claimed s.own finish).session.tag = s.session.tag ∧
      (s.claimed s.own finish).session.phase = s.session.phase := by
    rw [State.claimed_session, Session.noteFinish_moves]
    exact ⟨rfl, rfl, rfl, rfl⟩
  obtain ⟨hroster, hagreed, htag, hphase⟩ := hnoted
  have hrunning : s.session.phase ≠ .results := Phase.not_results_of_inRace (State.claimHolds_iff.1 h).1
  cases hall : (s.claimed s.own finish).allDone
  · rw [hstays hall]
    refine ⟨rfl, .inl rfl, hroster, hagreed, htag, .inr hphase, fun e => ?_, congrArg Port.details hport⟩
    rw [hport, hphase, decide_eq_false hrunning, Bool.and_false, Bool.or_false]
  · have hsession := State.raceOver_session (s := s.claimed s.own finish) .allDone
    obtain ⟨hmotion, hprox, hdetails⟩ := State.raceOver_rest (s := s.claimed s.own finish) .allDone
    rw [hover hall]
    refine ⟨hmotion.trans rfl, .inr (hprox.trans rfl), (congrArg Session.roster hsession).trans hroster,
      (congrArg Session.agreed hsession).trans hagreed, (congrArg Session.tag hsession).trans htag,
      .inl (congrArg Session.phase hsession), fun e => ?_, ?_⟩
    · rw [State.raceOver_latched, hport, hsession]
      simp
    · exact hdetails.trans (congrArg Port.details hport)

/-- The state in which the own claim is offered: the record stored, the phase FINISHED, the sweep stopped (R113, R135). -/
def State.crossing (s : State) (c : CarRecord) : State :=
  ((s.setLive c).setSession { s.session with phase := .finished }).setProx s.prox.stopped

theorem State.ownFinish_eq (c : CarRecord) :
    (s.setLive c).ownFinish finish = ((s.crossing c).offerClaim s.own finish s.session.tag).reevaluate := rfl

theorem State.reevaluate_after (h : s.session.phase = .results ∨ s.session.phase = .finished) :
    s.reevaluate = s.recomputeLobby := by
  unfold State.reevaluate
  obtain h | h := h <;> rw [h]

/-- Settles O32. -/
theorem theOwnFinish : Obligations.TheOwnFinish := by
  intro p s r hhears hphase hlive hflag hr hopen age early
  have hkind : s.postKind p = .finish := by rw [State.postKind_before hlive, if_pos ⟨hflag, hphase⟩]
  have hrace : s.session.phase.inRace = true := by rw [hphase]; rfl
  let finish := s.recordTimeOf p
  let c := s.postedRecord p
  have hfinish : c.finish = some finish := by simp [c, finish, State.postedRecord, hkind]
  have hlap : c.lap = BitVec.ofNat 8 s.laps := by simp [c, State.postedRecord, hkind]; rfl
  have hposition : c.position = 0 := by simp [c, State.postedRecord, hkind]
  have hlate : 0 ≤ tdiff finish (s.session.agreed.getD 0) := State.recordTimeOf_ge hrace
  have hclaim : (s.crossing c).claimHolds (s.crossing c).own finish s.session.tag = true :=
    State.claimHolds_iff.2 ⟨rfl, ⟨r, hr, hopen⟩, rfl, hlate⟩
  obtain ⟨hat, hresults, -, -⟩ := State.offerClaim_effects hclaim
  obtain ⟨hmotion, hprox, hroster, hagreed, htag, hends, hlatched, hdetails⟩ := State.offerClaim_own hclaim
  have hq : (s.crossing c).Quiet ((s.crossing c).offerClaim (s.crossing c).own finish s.session.tag) :=
    State.offerClaim_quiet _ _ _
  have hown := State.ownFinish_eq (s := s) (finish := finish) c
  rw [show s.own = (s.crossing c).own from rfl] at hown
  generalize (s.crossing c).offerClaim (s.crossing c).own finish s.session.tag = v at *
  have hsettles : v.reevaluate = v.recomputeLobby := State.reevaluate_after hends
  have hafter : (s.setLive c).afterPost (s.postKind p) c = v.recomputeLobby := by
    unfold State.afterPost
    rw [hkind, hfinish]
    exact hown.trans hsettles
  have hjudge : State.postCar p s = v.recomputeLobby.report (postBytes c (s.postClamped p)) := by
    rw [State.postCar_takes (.inr hrace), ← hafter]
    rfl
  have hbytes : postBytes c (s.postClamped p) =
      be4 finish ++ [BitVec.ofNat 8 s.laps, 0, 0, 0, if s.postClamped p then 3#8 else 2#8] ++ be4 finish := by
    unfold postBytes CarRecord.finished
    rw [hfinish, hlap, hposition, ← (markByte_post _).2]
    rfl
  have hclamped : s.timeClamped p = true ↔ early := by
    rw [State.timeClamped_iff]
    exact and_iff_right hrace
  refine ⟨_, c, finish, s.postClamped p, exec_report rfl hhears hjudge, hmotion, hfinish, rfl,
    fun h => State.recordTimeOf_early (hclamped.2 h), fun h => State.recordTimeOf_late fun h' => h (hclamped.1 h'), hlap,
    hposition, rfl, rfl, rfl, rfl, rfl, rfl, ?_, congrArg (0x00#8 :: ·) hbytes, hlate, hat, hresults.trans State.claimed_allDone,
    hends, ?_, hlatched, hq.port.mask, hdetails, hroster, hagreed, htag, hq.pending, hq.store, hq.bus, hq.link,
    hq.clock, hq.table,
    hq.patterns⟩
  · rw [State.postClamped_finished (by rw [hkind]; nofun), hclamped]
  · exact hprox.elim id id

end Sys2Proof.Machine
end

section

/-! Which kinds of event the shared operations latch: for every other kind the flag and the detail station stay (R195). -/

namespace Sys2Proof.Machine

variable {s t u : State} {e e' : Event} {st : Station}

/-- From `p` to `q` nothing has been latched of the kind `e`: its flag and its detail station stand. -/
structure Port.Unsaid (p : Port) (e : Event) (q : Port) : Prop where
  latched : q.latched e = p.latched e
  detail : ∀ i, e.detail = some i → q.details[i] = p.details[i]

theorem Port.Unsaid.rfl {p : Port} : p.Unsaid e p := ⟨.refl _, fun _ _ => .refl _⟩

theorem Port.Unsaid.trans {p q r : Port} (h : p.Unsaid e q) (k : q.Unsaid e r) : p.Unsaid e r :=
  ⟨k.latched.trans h.latched, fun i hi => (k.detail i hi).trans (h.detail i hi)⟩

/-- Two kinds do not share a detail station (R195). -/
theorem Event.detail_injective {i : Fin 9} (h : e.detail = some i) (h' : e'.detail = some i) : e = e' := by
  cases e <;> cases h <;> cases e' <;> simp [Event.detail] at h' ⊢

theorem Port.occur_unsaid (p : Port) (w : Option Station) (h : e ≠ e') : p.Unsaid e (p.occur e' w) where
  latched := Port.occur_latched_ne p w h
  detail i hi := by
    rw [Port.occur_details, if_neg fun hi' => h (Event.detail_injective hi hi')]

/-! ## The session -/

/-- The kinds that the re-evaluations of the Session Controller latch (R85, R86, R97, R99, R102). -/
def Event.ofSession (e : Event) : Bool :=
  e == .ruleChange || e == .cleardown || e == .armed || e == .aborted || e == .started

theorem Event.not_ofSession (h : e.ofSession = false) :
    e ≠ .ruleChange ∧ e ≠ .cleardown ∧ e ≠ .armed ∧ e ≠ .aborted ∧ e ≠ .started := by
  simpa [Event.ofSession, and_assoc] using h

theorem State.enterProposing_port : s.enterProposing.port = s.port := by
  obtain ⟨q, hmoves⟩ := State.enterProposing_moves (s := s)
  rw [hmoves]
  rfl

theorem State.applyTarget_port (phase : Phase) (n : Int) : (s.applyTarget phase n).port = s.port := by
  unfold State.applyTarget
  split <;> rfl

section
variable (h : e.ofSession = false)
include h

theorem State.resolveRule_unsaid : s.port.Unsaid e s.resolveRule.port := by
  obtain ⟨hrule, hdown, -⟩ := Event.not_ofSession h
  unfold State.resolveRule
  dsimp only
  repeat' split
  · exact Port.occur_unsaid s.port none hdown
  · exact (Port.occur_unsaid s.port none hrule).trans (Port.occur_unsaid _ none hdown)
  · exact .rfl
  · exact Port.occur_unsaid s.port none hrule

theorem State.abort_unsaid (cause : AbortCause) (who : Option Station) : s.port.Unsaid e (s.abort cause who).port :=
  (Port.occur_unsaid s.port none (Event.not_ofSession h).2.2.2.1).trans
    (State.resolveRule_unsaid (s := (s.abandoned cause who).recomputeLobby) h)

theorem State.start_unsaid : s.port.Unsaid e s.start.port := Port.occur_unsaid s.port none (Event.not_ofSession h).2.2.2.2

theorem State.enterArmed_unsaid : s.port.Unsaid e s.enterArmed.port := Port.occur_unsaid s.port none (Event.not_ofSession h).2.2.1

theorem State.evaluateArmed_unsaid : s.port.Unsaid e s.evaluateArmed.port := by
  unfold State.evaluateArmed
  dsimp only
  split
  · exact State.abort_unsaid (s := s.recomputeLobby) h _ _
  · exact .rfl

theorem State.afterArmed_unsaid : s.port.Unsaid e s.afterArmed.port := by
  unfold State.afterArmed
  split
  · exact State.start_unsaid h
  · exact State.evaluateArmed_unsaid h

theorem State.evaluateProposing_unsaid : s.port.Unsaid e s.evaluateProposing.port := by
  unfold State.evaluateProposing
  dsimp only
  split
  · exact State.abort_unsaid (s := s.recomputeLobby) h _ _
  · split
    · exact (State.enterArmed_unsaid (s := s.recomputeLobby) h).trans (State.afterArmed_unsaid h)
    · exact .rfl

/-- A re-evaluation latches only the kinds of the session (R82). -/
theorem State.reevaluate_unsaid : s.port.Unsaid e s.reevaluate.port := by
  unfold State.reevaluate
  split
  · unfold State.evaluateLobby
    dsimp only
    have hresolved : s.port.Unsaid e s.recomputeLobby.resolveRule.port := State.resolveRule_unsaid (s := s.recomputeLobby) h
    split
    · have hproposed := State.evaluateProposing_unsaid (s := s.recomputeLobby.resolveRule.enterProposing) h
      rw [State.enterProposing_port] at hproposed
      exact hresolved.trans hproposed
    · exact hresolved
  · exact State.evaluateProposing_unsaid h
  · exact State.evaluateArmed_unsaid h
  all_goals exact .rfl

/-- A new clock state latches CLOCK_STATE besides (R42). -/
theorem State.setClockState_unsaid (hclock : e ≠ .clockState) (y : ClockState) : s.port.Unsaid e (s.setClockState y).port := by
  unfold State.setClockState
  split
  · exact .rfl
  · exact (Port.occur_unsaid s.port none hclock).trans
      (State.reevaluate_unsaid (s := (s.setClock { s.clock with state := y }).signal .clockState) h)

theorem State.steer_unsaid (hclock : e ≠ .clockState) (phase : Phase) (samples : List Int) :
    s.port.Unsaid e (s.steer phase samples).port := by
  unfold State.steer
  split
  · exact .rfl
  split
  · exact State.setClockState_unsaid h hclock _
  · dsimp only
    rw [State.applyTarget_port]
    exact State.setClockState_unsaid h hclock _

theorem State.handOff_unsaid (hclock : e ≠ .clockState) (phase : Phase) : s.port.Unsaid e (s.handOff phase).port :=
  State.steer_unsaid (s := s.setLink (s.link.newWindow s.store.windowLength)) h hclock phase s.link.usable

end

/-! ## The race -/

theorem State.raceOver_port (cause : EndCause) : (s.raceOver cause).port = s.port.occur .raceOver none := by
  rw [State.raceOver_moves]
  rfl

theorem State.statusChanged_unsaid (h : e ≠ .raceOver) : s.port.Unsaid e s.statusChanged.port := by
  unfold State.statusChanged
  split
  · rw [State.raceOver_port]
    exact Port.occur_unsaid s.port none h
  · exact .rfl

theorem State.dnfCheckOne_unsaid (h : e ≠ .raceOver) : s.port.Unsaid e (s.dnfCheckOne st).port := by
  unfold State.dnfCheckOne
  repeat' split
  · exact State.statusChanged_unsaid (s := s.putStarter st _) h
  all_goals exact .rfl

/-- The DNF check latches RACE_OVER alone (R159, R165). -/
theorem State.dnfCheckAt_unsaid (h : e ≠ .raceOver) (place here : Nat) : s.port.Unsaid e (s.dnfCheckAt place here).port := by
  have hall : ∀ (l : List Station) (u : State), u.port.Unsaid e (l.foldl State.dnfCheckOne u).port := by
    intro l
    induction l with
    | nil => exact fun _ => .rfl
    | cons a l ih => exact fun u => (State.dnfCheckOne_unsaid h).trans (ih _)
  unfold State.dnfCheckAt
  split
  · exact hall stations s
  · exact .rfl

theorem State.starterLost_port : (s.starterLost st).port = s.port := by
  unfold State.starterLost
  repeat' split
  all_goals rfl

theorem State.starterBack_port : (s.starterBack st).port = s.port := by
  unfold State.starterBack
  repeat' split
  all_goals rfl

end Sys2Proof.Machine
end

section

/-! The judgement of the senders at a window expiry: the record it makes of each, and the events it tells (R26 to R32). -/

namespace Sys2Proof.Machine

variable {s t u : State} {e : Event} {st z : Station} {phase : Phase}

/-! ## The record of a sender -/

/-- A sender's record after the presence rule of its state (R27 to R31). -/
def Sender.presenceJudged (x : Sender) (store : Store) (phase : Phase) (now : Time) : Sender :=
  match x.presence with
  | .absent => x
  | .acquiring =>
    if store.on ≤ x.count.toNat then { x with presence := .present }
    else if x.count = 0 then { x with presence := .absent } else x
  | .present => if x.count.toNat < store.off then { x with presence := .fading, fade := 1 } else x
  | .fading =>
    if store.on ≤ x.count.toNat then { x with presence := .present, fade := 0 }
    else if store.off ≤ x.count.toNat then x
    else if min (x.fade + 1) store.dropout = store.dropout then
      { x with presence := .lost, fade := 0, expiry := 0, lostAt := some now }
    else { x with fade := min (x.fade + 1) store.dropout }
  | .lost =>
    if store.on ≤ x.count.toNat then { x with presence := .present, expiry := 0, lostAt := none }
    else if phase.outsideRace then
      if Config.lobbyExpiry ≤ x.expiry + 1 then { x with presence := .absent, expiry := 0, lostAt := none }
      else { x with expiry := x.expiry + 1 }
    else x

/-- A sender's record after its judgement: the presence rule, then the chatter test (R26, R32). -/
def Sender.judged (x : Sender) (store : Store) (phase : Phase) (now : Time) : Sender :=
  if store.window + 2 < x.count.toNat then { x.presenceJudged store phase now with chatter := true }
  else x.presenceJudged store phase now

theorem State.reevaluate_at : s.reevaluate.link.at st = s.link.at st := by rw [State.reevaluate_quiet.link]

theorem State.putSender_at (y : Sender) : (s.putSender st y).link.at st = y := Link.put_at_self _ _ _

theorem State.judgePresence_at :
    (s.judgePresence phase st).link.at st = (s.link.at st).presenceJudged s.store phase s.now := by
  unfold State.judgePresence Sender.presenceJudged
  dsimp only
  cases hpresence : (s.link.at st).presence <;> dsimp only
  · unfold State.judgeAcquiring
    repeat' split
    · exact State.reevaluate_at.trans (State.putSender_at _)
    · exact State.putSender_at _
    · rfl
  · unfold State.judgePresent
    split
    · exact State.putSender_at _
    · rfl
  · unfold State.judgeFading
    dsimp only
    repeat' split
    · exact State.putSender_at _
    · rfl
    · rw [State.reevaluate_at, (State.starterLost_quiet st).link]
      exact State.putSender_at _
    · rw [← hpresence]
      exact State.putSender_at _
  · unfold State.judgeLost
    have hempty : ∀ y : Sender, ((s.putSender st y).emptyEntry st).link.at st = y := fun y => by
      unfold State.emptyEntry
      exact State.reevaluate_at.trans (State.putSender_at _)
    repeat' split
    · rw [State.reevaluate_at, (State.starterBack_quiet st).link]
      exact State.putSender_at _
    · exact hempty _
    · rw [← hpresence]
      exact State.putSender_at _
    · rfl

theorem Sender.presenceJudged_count (x : Sender) (store : Store) (phase : Phase) (now : Time) :
    (x.presenceJudged store phase now).count = x.count ∧ (x.presenceJudged store phase now).sample = x.sample ∧
      (x.presenceJudged store phase now).chatter = x.chatter := by
  unfold Sender.presenceJudged
  split <;> repeat' split
  all_goals exact ⟨rfl, rfl, rfl⟩

/-- The judgement of one sender (R26). -/
theorem State.judgeSender_at : (State.judgeSender phase s st).link.at st = (s.link.at st).judged s.store phase s.now := by
  have hpresence := State.judgePresence_at (s := s) (phase := phase) (st := st)
  unfold State.judgeSender State.judgeChatter Sender.judged
  dsimp only
  rw [hpresence, (Sender.presenceJudged_count _ _ _ _).1, show (s.judgePresence phase st).store = s.store from
    (State.judgePresence_judges _ _).store]
  split
  · exact State.putSender_at _
  · exact hpresence

/-- The judgement of every sender (R26). -/
theorem State.judgeSenders_at : (s.judgeSenders phase).link.at st = (s.link.at st).judged s.store phase s.now := by
  have hall := foldl_judgeSender_induct (s := s) (phase := phase)
    (P := fun done u => (∀ z ∈ done, u.link.at z = (s.link.at z).judged s.store phase s.now) ∧ u.now = s.now)
    stations stations_nodup ⟨nofun, rfl⟩ (fun done x u hnew hat hstore ⟨hdone, hnow⟩ => by
      refine ⟨fun z hz => ?_, ?_⟩
      · obtain hz | hz := List.mem_append.1 hz
        · rw [State.judgeSender_at_ne (fun h : z = x => hnew (h ▸ hz))]
          exact hdone z hz
        · cases List.mem_singleton.1 hz
          rw [State.judgeSender_at, hat, hstore, hnow]
      · rw [← hnow]
        unfold State.now
        rw [(State.judgeSender_judges phase x).clock])
  exact hall.1 st (mem_stations st)

/-! ## The events of the judgement -/

/-- The kind that the presence rule of a sender tells at this expiry (R27, R29, R30). -/
def State.presenceEvent (s : State) (st : Station) : Option Event :=
  match (s.link.at st).presence with
  | .absent => none
  | .acquiring => if s.store.on ≤ (s.link.at st).count.toNat then some .peerUp else none
  | .present => none
  | .fading =>
    if s.store.on ≤ (s.link.at st).count.toNat then none
    else if s.store.off ≤ (s.link.at st).count.toNat then none
    else if min ((s.link.at st).fade + 1) s.store.dropout = s.store.dropout then some .peerLost else none
  | .lost => if s.store.on ≤ (s.link.at st).count.toNat then some .peerBack else none

/-- Whether the judgement of a sender tells this kind of event (R27, R29, R30, R32). -/
def State.tells (s : State) (e : Event) (st : Station) : Bool :=
  decide (s.presenceEvent st = some e) ||
    (decide (e = .chatter) && decide (s.store.window + 2 < (s.link.at st).count.toNat))

theorem State.tells_of (hat : t.link.at st = s.link.at st) (hstore : t.store = s.store) : t.tells e st = s.tells e st := by
  unfold State.tells State.presenceEvent
  rw [hat, hstore]

theorem State.emptyEntry_unsaid (h : e.ofSession = false) : s.port.Unsaid e (s.emptyEntry st).port := by
  unfold State.emptyEntry
  exact State.reevaluate_unsaid (s := s.putEntry st Entry.empty) h

/-- The presence rule of a sender latches its own kind, and else only kinds of the session (R27 to R31). -/
theorem State.judgePresence_tells (h : e.ofSession = false) :
    (s.presenceEvent st = none → s.port.Unsaid e (s.judgePresence phase st).port) ∧
    (∀ told, s.presenceEvent st = some told →
      (s.port.occur told (some st)).Unsaid e (s.judgePresence phase st).port) := by
  have hnone : ∀ {q : Port}, (s.port.Unsaid e q) → ((none : Option Event) = none → s.port.Unsaid e q) ∧
      (∀ told, (none : Option Event) = some told → (s.port.occur told (some st)).Unsaid e q) := fun hq => ⟨fun _ => hq, nofun⟩
  have hsome : ∀ {q : Port} {told : Event}, ((s.port.occur told (some st)).Unsaid e q) →
      (some told = none → s.port.Unsaid e q) ∧ (∀ told', some told = some told' →
        (s.port.occur told' (some st)).Unsaid e q) := fun hq => ⟨nofun, fun _ h => by cases h; exact hq⟩
  unfold State.judgePresence State.presenceEvent
  dsimp only
  cases (s.link.at st).presence <;> dsimp only
  · exact hnone .rfl
  · unfold State.judgeAcquiring
    split
    · exact hsome (State.reevaluate_unsaid (s := (s.putSender st _).signalAt .peerUp st) h)
    · split <;> exact hnone .rfl
  · unfold State.judgePresent
    split <;> exact hnone .rfl
  · unfold State.judgeFading
    dsimp only
    repeat' split
    · exact hnone .rfl
    · exact hnone .rfl
    · refine hsome ?_
      have hagain := State.reevaluate_unsaid (s := ((s.putSender st { s.link.at st with
        presence := .lost, fade := 0, expiry := 0, lostAt := some s.now }).signalAt .peerLost st).starterLost st) h
      rw [State.starterLost_port] at hagain
      exact hagain
    · exact hnone .rfl
  · unfold State.judgeLost
    dsimp only
    repeat' split
    · refine hsome ?_
      have hagain := State.reevaluate_unsaid (s := ((s.putSender st { s.link.at st with
        presence := .present, expiry := 0, lostAt := none }).signalAt .peerBack st).starterBack st) h
      rw [State.starterBack_port] at hagain
      exact hagain
    · exact hnone (State.emptyEntry_unsaid (s := s.putSender st _) h)
    · exact hnone .rfl
    · exact hnone .rfl

theorem State.presenceEvent_ne_chatter : s.presenceEvent st ≠ some .chatter := by
  unfold State.presenceEvent
  repeat' split
  all_goals nofun

/-- The judgement of a sender latches a kind it tells, with the sender as its detail, and no other but those of the session
(R27 to R32). -/
theorem State.judgeSender_tells (h : e.ofSession = false) :
    (s.tells e st = true → (State.judgeSender phase s st).port.latched e = true ∧
      ∀ i, e.detail = some i → (State.judgeSender phase s st).port.details[i] = st) ∧
    (s.tells e st = false → s.port.Unsaid e (State.judgeSender phase s st).port) := by
  obtain ⟨hnone, hsome⟩ := State.judgePresence_tells (s := s) (st := st) (phase := phase) h
  have hcount : ((s.judgePresence phase st).link.at st).count = (s.link.at st).count := by
    rw [State.judgePresence_at, (Sender.presenceJudged_count _ _ _ _).1]
  have hstore : (s.judgePresence phase st).store = s.store := (State.judgePresence_judges _ _).store
  have hjudged : (State.judgeSender phase s st).port = if s.store.window + 2 < (s.link.at st).count.toNat then
      (s.judgePresence phase st).port.occur .chatter (some st) else (s.judgePresence phase st).port := by
    unfold State.judgeSender State.judgeChatter
    dsimp only
    rw [hcount, hstore]
    split <;> rfl
  have hoccurs : ∀ p : Port, (p.occur e (some st)).latched e = true ∧
      ∀ i, e.detail = some i → (p.occur e (some st)).details[i] = st := fun p =>
    ⟨Port.occur_latched_self p e (some st), fun i hi => by rw [Port.occur_details, if_pos hi]; rfl⟩
  unfold State.tells
  rw [hjudged]
  by_cases hchatter : e = .chatter
  · subst hchatter
    have hpresence : s.port.Unsaid .chatter (s.judgePresence phase st).port := by
      cases htold : s.presenceEvent st with
      | none => exact hnone htold
      | some told =>
        have hne : Event.chatter ≠ told := fun h => State.presenceEvent_ne_chatter (htold.trans (congrArg some h.symm))
        exact (Port.occur_unsaid s.port (some st) hne).trans (hsome told htold)
    simp only [State.presenceEvent_ne_chatter, decide_false, decide_true, Bool.true_and, Bool.false_or, decide_eq_true_eq,
      decide_eq_false_iff_not]
    refine ⟨fun hmany => ?_, fun hfew => ?_⟩
    · rw [if_pos hmany]
      exact hoccurs _
    · rw [if_neg hfew]
      exact hpresence
  · have hlast : (s.judgePresence phase st).port.Unsaid e (if s.store.window + 2 < (s.link.at st).count.toNat then
        (s.judgePresence phase st).port.occur .chatter (some st) else (s.judgePresence phase st).port) := by
      split
      · exact Port.occur_unsaid _ _ hchatter
      · exact .rfl
    simp only [hchatter, decide_false, Bool.false_and, Bool.or_false, decide_eq_true_eq, decide_eq_false_iff_not]
    refine ⟨fun htold => ?_, fun hother => ?_⟩
    · obtain ⟨hlatched, hdetail⟩ := (hsome e htold).trans hlast
      exact ⟨hlatched.trans (hoccurs s.port).1, fun i hi => (hdetail i hi).trans ((hoccurs s.port).2 i hi)⟩
    · cases htold : s.presenceEvent st with
      | none => exact (hnone htold).trans hlast
      | some told =>
        have hne : e ≠ told := fun h => hother (htold.trans (congrArg some h.symm))
        exact ((Port.occur_unsaid s.port (some st) hne).trans (hsome told htold)).trans hlast

/-- The judgement of every sender latches a kind where some sender tells it, with the last such sender as its detail (R26). -/
theorem State.judgeSenders_tells (h : e.ofSession = false) :
    ((s.judgeSenders phase).port.latched e = (s.port.latched e || (stations.any fun st => s.tells e st))) ∧
    ∀ i, e.detail = some i →
      (s.judgeSenders phase).port.details[i] = ((stations.filter fun st => s.tells e st).getLast?).getD s.port.details[i] := by
  have hall := foldl_judgeSender_induct (s := s) (phase := phase)
    (P := fun done u => (u.port.latched e = (s.port.latched e || (done.any fun st => s.tells e st))) ∧
      ∀ i, e.detail = some i → u.port.details[i] = ((done.filter fun st => s.tells e st).getLast?).getD s.port.details[i])
    stations stations_nodup ⟨by simp, fun i _ => rfl⟩ (fun done x u _ hat hstore ⟨hlatched, hdetail⟩ => by
      obtain ⟨htells, hsilent⟩ := State.judgeSender_tells (s := u) (st := x) (phase := phase) h
      rw [State.tells_of hat hstore] at htells hsilent
      cases htold : s.tells e x with
      | true =>
        obtain ⟨hnew, hstation⟩ := htells htold
        refine ⟨by rw [hnew]; simp [htold], fun i hi => ?_⟩
        rw [hstation i hi]
        simp [List.filter_append, htold]
      | false =>
        obtain ⟨hkept, hstands⟩ := hsilent htold
        refine ⟨by rw [hkept, hlatched]; simp [htold], fun i hi => ?_⟩
        rw [hstands i hi, hdetail i hi]
        simp [List.filter_append, htold])
  unfold State.judgeSenders
  exact hall

end Sys2Proof.Machine
end

section

/-! Steering and the retard debt: the target over the samples, the samples a window expiry steers by, CLOCK_STATE, and the payment
of the debt (R42 to R49). -/

namespace Sys2Proof.Machine

variable {s t u : State} {st : Station} {phase : Phase}

/-! ## The target -/

/-- The largest and the smallest of the samples and the own 0 (R45). -/
theorem largest_spec (xs : List Int) : largest xs ∈ (0 : Int) :: xs ∧ ∀ x ∈ (0 : Int) :: xs, x ≤ largest xs := by
  have hfold : ∀ (l : List Int) (a : Int), l.foldl max a ∈ a :: l ∧ ∀ x ∈ a :: l, x ≤ l.foldl max a := by
    intro l
    induction l with
    | nil => simp
    | cons b l ih =>
      intro a
      obtain ⟨hmem, hle⟩ := ih (max a b)
      rw [List.foldl_cons]
      refine ⟨?_, fun x hx => ?_⟩
      · obtain h | h := List.mem_cons.1 hmem
        · obtain hm | hm := max_choice a b <;> rw [h, hm] <;> simp
        · simp [h]
      · have hmax := hle (max a b) List.mem_cons_self
        rw [List.mem_cons, List.mem_cons] at hx
        obtain rfl | rfl | hx := hx
        · exact (le_max_left _ _).trans hmax
        · exact (le_max_right _ _).trans hmax
        · exact hle x (List.mem_cons_of_mem _ hx)
  exact hfold xs 0

theorem smallest_spec (xs : List Int) : smallest xs ∈ (0 : Int) :: xs ∧ ∀ x ∈ (0 : Int) :: xs, smallest xs ≤ x := by
  have hfold : ∀ (l : List Int) (a : Int), l.foldl min a ∈ a :: l ∧ ∀ x ∈ a :: l, l.foldl min a ≤ x := by
    intro l
    induction l with
    | nil => simp
    | cons b l ih =>
      intro a
      obtain ⟨hmem, hle⟩ := ih (min a b)
      rw [List.foldl_cons]
      refine ⟨?_, fun x hx => ?_⟩
      · obtain h | h := List.mem_cons.1 hmem
        · obtain hm | hm := min_choice a b <;> rw [h, hm] <;> simp
        · simp [h]
      · have hmin := hle (min a b) List.mem_cons_self
        rw [List.mem_cons, List.mem_cons] at hx
        obtain rfl | rfl | hx := hx
        · exact hmin.trans (min_le_left _ _)
        · exact hmin.trans (min_le_right _ _)
        · exact hle x (List.mem_cons_of_mem _ hx)
  exact hfold xs 0

theorem largest_eq {xs : List Int} {hi : Int} (hmem : hi ∈ (0 : Int) :: xs) (hle : ∀ x ∈ (0 : Int) :: xs, x ≤ hi) :
    largest xs = hi :=
  le_antisymm (hle _ (largest_spec xs).1) ((largest_spec xs).2 hi hmem)

theorem smallest_eq {xs : List Int} {lo : Int} (hmem : lo ∈ (0 : Int) :: xs) (hle : ∀ x ∈ (0 : Int) :: xs, lo ≤ x) :
    smallest xs = lo :=
  le_antisymm ((smallest_spec xs).2 lo hmem) (hle _ (smallest_spec xs).1)

/-- With fewer than four values the target is their mean (R45). -/
theorem steeringTarget_few {xs : List Int} (h : xs.length ≤ 2) :
    steeringTarget xs = Int.tdiv ((0 : Int) :: xs).sum ((0 : Int) :: xs).length := by
  unfold steeringTarget
  dsimp only
  rw [if_neg (by omega), List.sum_cons, zero_add, List.length_cons]

/-- With four or more it is the mean of what one largest and one smallest leave (R45). -/
theorem steeringTarget_many {xs kept : List Int} {hi lo : Int} (h : 3 ≤ xs.length)
    (hperm : ((0 : Int) :: xs).Perm (hi :: lo :: kept)) (hbounds : ∀ x ∈ (0 : Int) :: xs, lo ≤ x ∧ x ≤ hi) :
    steeringTarget xs = Int.tdiv kept.sum kept.length := by
  have hlargest : largest xs = hi := largest_eq (hperm.mem_iff.2 (by simp)) fun x hx => (hbounds x hx).2
  have hsmallest : smallest xs = lo := smallest_eq (hperm.mem_iff.2 (by simp)) fun x hx => (hbounds x hx).1
  have hsum : xs.sum = hi + (lo + kept.sum) := by simpa using hperm.sum_eq
  have hlength : xs.length + 1 = kept.length + 2 := by simpa using hperm.length_eq
  unfold steeringTarget
  dsimp only
  rw [if_pos (by omega), hlargest, hsmallest, hsum, hlength]
  congr 1
  omega

/-- One largest and one smallest of two values or more can be taken out of them (R45). -/
theorem exists_kept {xs : List Int} (h : xs ≠ []) : ∃ kept, ((0 : Int) :: xs).Perm (largest xs :: smallest xs :: kept) := by
  obtain ⟨hlargest, hle⟩ := largest_spec xs
  obtain ⟨hsmallest, hge⟩ := smallest_spec xs
  have hfirst := List.perm_cons_erase hlargest
  have hin : smallest xs ∈ ((0 : Int) :: xs).erase (largest xs) := by
    by_cases hsame : smallest xs = largest xs
    · have hlength := hfirst.length_eq
      rw [List.length_cons, List.length_cons] at hlength
      obtain ⟨y, hy⟩ := List.exists_mem_of_length_pos
        (show 0 < (((0 : Int) :: xs).erase (largest xs)).length by have := List.length_pos_iff.2 h; omega)
      have hmem : y ∈ (0 : Int) :: xs := List.mem_of_mem_erase hy
      have heq : y = smallest xs := le_antisymm (hsame ▸ hle y hmem) (hge y hmem)
      exact heq ▸ hy
    · exact (List.mem_erase_of_ne hsame).2 hsmallest
  exact ⟨_, hfirst.trans ((List.perm_cons_erase hin).cons _)⟩

/-- A mean rounded toward zero lies within bounds about zero (R45). -/
theorem tdiv_sum_bounds {l : List Int} {lo hi : Int} (hlo : lo ≤ 0) (hhi : 0 ≤ hi) (h : ∀ x ∈ l, lo ≤ x ∧ x ≤ hi) :
    lo ≤ Int.tdiv l.sum l.length ∧ Int.tdiv l.sum l.length ≤ hi := by
  have hsum : lo * l.length ≤ l.sum ∧ l.sum ≤ hi * l.length := by
    induction l with
    | nil => simp
    | cons a l ih =>
      obtain ⟨hlow, hhigh⟩ := ih fun x hx => h x (List.mem_cons_of_mem _ hx)
      obtain ⟨ha, ha'⟩ := h a List.mem_cons_self
      rw [List.sum_cons, List.length_cons, Nat.cast_add, Nat.cast_one, mul_add, mul_add, mul_one, mul_one]
      omega
  by_cases hempty : (l.length : Int) = 0
  · rw [hempty, Int.tdiv_zero]; exact ⟨hlo, hhi⟩
  have hpos : (0 : Int) < l.length := by omega
  by_cases hsign : 0 ≤ l.sum
  · rw [Int.tdiv_eq_ediv_of_nonneg hsign]
    exact ⟨hlo.trans (Int.ediv_nonneg hsign hpos.le), Int.ediv_le_of_le_mul hpos hsum.2⟩
  · have hneg : Int.tdiv l.sum l.length = -((-l.sum) / l.length) := by
      rw [← Int.tdiv_eq_ediv_of_nonneg (by omega), Int.neg_tdiv, neg_neg]
    have hquotient : 0 ≤ (-l.sum) / (l.length : Int) := Int.ediv_nonneg (by omega) hpos.le
    have hbound : (-l.sum) / (l.length : Int) ≤ -lo := Int.ediv_le_of_le_mul hpos (by rw [neg_mul]; omega)
    rw [hneg]
    omega

theorem steeringTarget_bounds {xs : List Int} {lo hi : Int} (hlo : lo ≤ 0) (hhi : 0 ≤ hi) (h : ∀ x ∈ xs, lo ≤ x ∧ x ≤ hi) :
    lo ≤ steeringTarget xs ∧ steeringTarget xs ≤ hi := by
  have hall : ∀ x ∈ (0 : Int) :: xs, lo ≤ x ∧ x ≤ hi := fun x hx => by
    obtain rfl | hx := List.mem_cons.1 hx
    · exact ⟨hlo, hhi⟩
    · exact h x hx
  by_cases hfew : xs.length ≤ 2
  · rw [steeringTarget_few hfew]
    exact tdiv_sum_bounds hlo hhi hall
  · obtain ⟨kept, hperm⟩ := exists_kept (xs := xs) (by rintro rfl; simp at hfew)
    rw [steeringTarget_many (by omega) hperm fun x hx => ⟨(smallest_spec xs).2 x hx, (largest_spec xs).2 x hx⟩]
    exact tdiv_sum_bounds hlo hhi fun x hx => hall x (hperm.mem_iff.2 (by simp [hx]))

/-- The target does not depend on the order of the samples (R45). -/
theorem steeringTarget_perm {xs ys : List Int} (h : xs.Perm ys) : steeringTarget xs = steeringTarget ys := by
  have hmem : ∀ x, x ∈ (0 : Int) :: ys ↔ x ∈ (0 : Int) :: xs := fun x => by simp [h.mem_iff]
  have hlargest : largest xs = largest ys :=
    largest_eq ((hmem _).1 (largest_spec ys).1) fun x hx => (largest_spec ys).2 x ((hmem x).2 hx)
  have hsmallest : smallest xs = smallest ys :=
    smallest_eq ((hmem _).1 (smallest_spec ys).1) fun x hx => (smallest_spec ys).2 x ((hmem x).2 hx)
  unfold steeringTarget
  rw [hlargest, hsmallest, h.sum_eq, h.length_eq]

/-! ## The samples of a window expiry -/

/-- What the judgement of a window expiry makes of a sender (R26). -/
theorem State.expiryJudged_at : s.expiryJudged.link.at st = (s.link.at st).judged s.store s.session.phase s.now := by
  have hquiet := State.dnfCheckAt_quiet (s := s.picked) (s.pick Config.dnfOrder 3) 0
  unfold State.expiryJudged
  rw [State.judgeSenders_at, hquiet.link, hquiet.store]
  unfold State.now
  rw [hquiet.clock]
  rfl

theorem Sender.judged_sample (x : Sender) (store : Store) (phase : Phase) (now : Time) :
    (x.judged store phase now).sample = x.sample := by
  unfold Sender.judged
  split <;> exact (Sender.presenceJudged_count x store phase now).2.1

/-- A window expiry steers by the samples of the senders live and not chattering after its judgement (R26, R44). -/
theorem State.expirySamples_eq : s.expirySamples = stations.filterMap fun st =>
    if ((s.windowEvaluation.link.at st).presence = .present ∨ (s.windowEvaluation.link.at st).presence = .fading) ∧
      (s.windowEvaluation.link.at st).chatter = false
    then (s.link.at st).sample.map BitVec.toInt else none := by
  have hlink : ∀ st, s.windowEvaluation.link.at st = { s.expiryJudged.link.at st with count := 0, sample := none } := fun st => by
    rw [State.windowEvaluation_rest.1, Link.newWindow_at]
  have hsample : ∀ st, (s.expiryJudged.link.at st).sample = (s.link.at st).sample := fun st => by
    rw [State.expiryJudged_at, Sender.judged_sample]
  have hlive : ∀ p : Presence, p.live = true ↔ p = .present ∨ p = .fading := fun p => by cases p <;> simp [Presence.live]
  unfold State.expirySamples Link.usable
  refine List.filterMap_congr fun st _ => ?_
  rw [hlink, ← hsample]
  generalize s.expiryJudged.link.at st = x
  exact if_congr (by rw [Bool.and_eq_true, hlive, Bool.not_eq_true']) rfl rfl

/-! ## CLOCK_STATE -/

/-- A new clock state latches CLOCK_STATE exactly where it is another (R42). -/
theorem State.setClockState_latched (y : ClockState) : (s.setClockState y).port.latched .clockState =
    (s.port.latched .clockState || decide (y ≠ s.clock.state)) := by
  unfold State.setClockState
  by_cases h : s.clock.state = y
  · rw [if_pos h]; simp [h]
  · rw [if_neg h]
    have hagain := (State.reevaluate_unsaid (s := (s.setClock { s.clock with state := y }).signal .clockState)
      (e := .clockState) rfl).latched
    rw [hagain]
    show (s.port.occur .clockState none).latched .clockState = _
    rw [Port.occur_latched_self]
    simp [Ne.symm h]

theorem State.steer_latched (phase : Phase) (samples : List Int) : (s.steer phase samples).port.latched .clockState =
    (s.port.latched .clockState || decide ((s.steer phase samples).clock.state ≠ s.clock.state)) := by
  rw [State.steer_clock]
  unfold State.steer Clock.steered
  by_cases hoffline : phase = .offline
  · simp [hoffline]
  by_cases hempty : samples = []
  · rw [if_neg hoffline, if_pos hempty, if_neg hoffline, if_pos hempty, State.setClockState_latched]
  rw [if_neg hoffline, if_neg hempty, if_neg hoffline, if_neg hempty, State.applyTarget_port, State.setClockState_latched]

/-- Settles O47. -/
theorem steeringMovesTheClock : Obligations.SteeringMovesTheClock := by
  refine ⟨fun xs => ⟨steeringTarget_few, fun hi lo kept h hperm hbounds => steeringTarget_many h hperm hbounds⟩,
    fun s hreset hwindow => ?_, fun xs ys h => ⟨steeringTarget_perm h, fun lo hi hlo hhi hx => steeringTarget_bounds hlo hhi hx⟩,
    fun s phase samples => ⟨?_, fun hoffline hempty => ?_, fun hoffline hsamples => ?_, State.steer_latched phase samples⟩⟩
  · refine ⟨s.windowEvaluation, exec_caused (i := .windowExpiry) rfl hreset (by simp [State.windowOver, hwindow]), ?_⟩
    rw [State.steer_clock, State.windowEvaluation_rest.2.1, State.expirySamples_eq]
  · rintro rfl
    exact State.steer_offline samples
  · rw [State.steer_clock]
    unfold Clock.steered
    rw [if_neg hoffline, if_pos hempty]
  · rw [State.steer_clock]
    unfold Clock.steered
    rw [if_neg hoffline, if_neg hsamples]

/-! ## Paying the debt -/

/-- One microsecond of the clock, with the payment that falls due in it (R49). -/
def Clock.tick (c : Clock) : Clock := if c.paymentDue then c.pay else c.advance

/-- The first microseconds of a group, while a debt is outstanding (R49). -/
theorem Clock.tick_counts (c : Clock) (hdebt : 0 < c.debt) (hpayment : c.payment = 0) :
    ∀ n, n ≤ 7 → Clock.tick^[n] c = { c with t := c.t + BitVec.ofNat 32 n, payment := n }
  | 0, _ => by
    obtain ⟨t, k, debt, payment, state⟩ := c
    cases hpayment
    simp
  | n + 1, hn => by
    rw [Function.iterate_succ_apply', Clock.tick_counts c hdebt hpayment n (by omega)]
    have hdue : Clock.paymentDue { c with t := c.t + BitVec.ofNat 32 n, payment := n } = false := by
      simp [Clock.paymentDue]; omega
    unfold Clock.tick
    rw [hdue, if_neg Bool.false_ne_true]
    unfold Clock.advance
    simp only [hdebt, if_true]
    congr 1
    bv_omega

/-- The eighth pays 1 µs of it (R49). -/
theorem Clock.tick_group (c : Clock) (hdebt : 0 < c.debt) (hpayment : c.payment = 0) :
    Clock.tick^[8] c = { c with t := c.t + 8, k := c.k - 1, debt := c.debt - 1, payment := 0 } := by
  rw [Function.iterate_succ_apply', Clock.tick_counts c hdebt hpayment 7 (le_refl _)]
  have hdue : Clock.paymentDue { c with t := c.t + BitVec.ofNat 32 7, payment := 7 } = true := by
    simp [Clock.paymentDue, hdebt]
  unfold Clock.tick
  rw [hdue, if_pos rfl]
  unfold Clock.pay
  congr 1
  bv_omega

/-- A debt of d µs is paid in 8 × d µs of T (R49). -/
theorem Clock.tick_pays : ∀ (d : Nat) (c : Clock), c.debt = d → c.payment = 0 → Clock.tick^[8 * d] c =
    { t := c.t + BitVec.ofNat 32 (8 * d), k := c.k - BitVec.ofNat 32 d, debt := 0, payment := 0, state := c.state }
  | 0, c, hdebt, hpayment => by
    obtain ⟨t, k, debt, payment, state⟩ := c
    cases hdebt
    cases hpayment
    simp
  | d + 1, c, hdebt, hpayment => by
    rw [show 8 * (d + 1) = 8 * d + 8 by omega, Function.iterate_add_apply, Clock.tick_group c (by omega) hpayment,
      Clock.tick_pays d _ (by dsimp only; omega) rfl]
    dsimp only
    congr 1 <;> bv_omega

/-- Settles O48. -/
theorem debtPaymentHoldsTheClock : Obligations.DebtPaymentHoldsTheClock := by
  refine ⟨fun s hreset hdebt hpayment => ?_, fun c hpayment => Clock.tick_pays c.debt c rfl hpayment⟩
  have hdue : s.paymentDue = true := by simp [State.paymentDue, Clock.paymentDue, hdebt, hpayment]
  have hmoves : s.payMicrosecond = s.countTimers.setClock s.clock.pay := rfl
  refine ⟨s.payMicrosecond, exec_caused (i := .debtPayment) rfl hreset hdue, ?_, State.payMicrosecond_clock, ?_⟩
  · unfold State.now
    rw [State.payMicrosecond_clock]
    show s.clock.t + 1 + (s.clock.k - 1) = s.clock.t + s.clock.k
    bv_omega
  · rw [hmoves, State.countTimers_moves]
    refine ⟨rfl, rfl, rfl, rfl, rfl, rfl, rfl, rfl, rfl, rfl, rfl⟩

end Sys2Proof.Machine
end

section

/-! A window expiry whole: what becomes of every sender and its entry, the events told, and the re-evaluations it starts (R26 to
R34, R42, R82, R96). -/

namespace Sys2Proof.Machine

variable {s t u : State} {e : Event} {st z : Station} {phase : Phase} {m : StationSet}

/-! ## Every sender -/

/-- A window expiry leaves each sender judged, with the next window begun (R26). -/
theorem State.windowEvaluation_at : s.windowEvaluation.link.at st =
    { (s.link.at st).judged s.store s.session.phase s.now with count := 0, sample := none } := by
  rw [State.windowEvaluation_rest.1, Link.newWindow_at, State.expiryJudged_at]

theorem Sender.judged_eq (x : Sender) (store : Store) (phase : Phase) (now : Time) : x.judged store phase now =
    { x.presenceJudged store phase now with chatter := (x.chatter || decide (store.window + 2 < x.count.toNat)) } := by
  have hchatter := (Sender.presenceJudged_count x store phase now).2.2
  unfold Sender.judged
  by_cases hmany : store.window + 2 < x.count.toNat
  · simp [hmany]
  · simp [hmany, ← hchatter]

section
variable {x : Sender} {store : Store} {now : Time}

/-- What the presence rule makes of a sender in ACQUIRING (R27). -/
theorem Sender.presenceJudged_acquiring (h : x.presence = .acquiring) : (x.presenceJudged store phase now).presence =
    if store.on ≤ x.count.toNat then .present else if x.count = 0 then .absent else .acquiring := by
  unfold Sender.presenceJudged
  rw [h]
  dsimp only
  repeat' split
  · rfl
  · rfl
  · exact h

/-- In PRESENT (R28). -/
theorem Sender.presenceJudged_present (h : x.presence = .present) : x.presenceJudged store phase now =
    if x.count.toNat < store.off then { x with presence := .fading, fade := 1 } else x := by
  unfold Sender.presenceJudged
  rw [h]

/-- In FADING (R29). -/
theorem Sender.presenceJudged_fading (h : x.presence = .fading) : x.presenceJudged store phase now =
    if store.on ≤ x.count.toNat then { x with presence := .present, fade := 0 }
    else if store.off ≤ x.count.toNat then x
    else if min (x.fade + 1) store.dropout = store.dropout then
      { x with presence := .lost, fade := 0, expiry := 0, lostAt := some now }
    else { x with fade := min (x.fade + 1) store.dropout } := by
  unfold Sender.presenceJudged
  simp only [h]

/-- In LOST (R30, R31). -/
theorem Sender.presenceJudged_lost (h : x.presence = .lost) : x.presenceJudged store phase now =
    if store.on ≤ x.count.toNat then { x with presence := .present, expiry := 0, lostAt := none }
    else if phase.outsideRace then
      if Config.lobbyExpiry ≤ x.expiry + 1 then { x with presence := .absent, expiry := 0, lostAt := none }
      else { x with expiry := x.expiry + 1 }
    else x := by
  unfold Sender.presenceJudged
  simp only [h]

theorem Sender.presenceJudged_absent (h : x.presence = .absent) : x.presenceJudged store phase now = x := by
  unfold Sender.presenceJudged
  rw [h]

end

/-! ## Every entry -/

theorem State.reevaluate_table : s.reevaluate.table = s.table := State.reevaluate_quiet.table

/-- The judgement of a sender empties its entry where it moves from LOST to ABSENT, and else leaves it (R31, R63). -/
theorem State.judgeSender_entry_self : (State.judgeSender phase s st).table.at st =
    if (s.link.at st).presence = .lost ∧ ((s.link.at st).presenceJudged s.store phase s.now).presence = .absent then Entry.empty
    else s.table.at st := by
  have hchatter : ∀ t : State, (t.judgeChatter st).table = t.table := fun t => State.judgeChatter_alike.table
  unfold State.judgeSender State.judgePresence
  rw [hchatter]
  dsimp only
  cases hpresence : (s.link.at st).presence <;> dsimp only
  · rw [if_neg (fun h => by cases h.1)]
  · rw [if_neg (fun h => by cases h.1)]
    unfold State.judgeAcquiring
    repeat' split
    · rw [State.reevaluate_table]; rfl
    · rfl
    · rfl
  · rw [if_neg (fun h => by cases h.1)]
    unfold State.judgePresent
    split <;> rfl
  · rw [if_neg (fun h => by cases h.1)]
    unfold State.judgeFading
    dsimp only
    repeat' split
    · rfl
    · rfl
    · rw [State.reevaluate_table, (State.starterLost_quiet st).table]; rfl
    · rfl
  · rw [Sender.presenceJudged_lost hpresence]
    unfold State.judgeLost
    by_cases hreturns : s.store.on ≤ (s.link.at st).count.toNat
    · rw [if_pos hreturns, if_pos hreturns, State.reevaluate_table, (State.starterBack_quiet st).table]
      rfl
    rw [if_neg hreturns, if_neg hreturns]
    by_cases hphase : phase.outsideRace = true
    · rw [if_pos hphase, if_pos hphase]
      by_cases hexpires : Config.lobbyExpiry ≤ (s.link.at st).expiry + 1
      · rw [if_pos hexpires, if_pos hexpires, if_pos ⟨rfl, rfl⟩]
        unfold State.emptyEntry
        rw [State.reevaluate_table]
        exact Table.put_at_self _ _ _
      · rw [if_neg hexpires, if_neg hexpires, if_neg (fun h => by rw [hpresence] at h; cases h.2)]
        rfl
    · rw [if_neg hphase, if_neg hphase, if_neg (fun h => by rw [hpresence] at h; cases h.2)]

/-- The judgement of every sender, as its entry sees it (R31, R63). -/
theorem State.judgeSenders_entry : (s.judgeSenders phase).table.at st =
    if (s.link.at st).presence = .lost ∧ ((s.link.at st).presenceJudged s.store phase s.now).presence = .absent then Entry.empty
    else s.table.at st := by
  have hall := foldl_judgeSender_induct (s := s) (phase := phase)
    (P := fun done u => (∀ z, u.table.at z = if z ∈ done ∧ (s.link.at z).presence = .lost ∧
      ((s.link.at z).presenceJudged s.store phase s.now).presence = .absent then Entry.empty else s.table.at z) ∧ u.now = s.now)
    stations stations_nodup ⟨fun z => by simp, rfl⟩ (fun done x u hnew hat hstore ⟨hdone, hnow⟩ => by
      refine ⟨fun z => ?_, ?_⟩
      · by_cases hz : z = x
        · subst hz
          rw [State.judgeSender_entry_self, hat, hstore, hnow, hdone]
          simp [hnew]
        · rw [State.judgeSender_entry_ne hz, hdone]
          simp [hz]
      · rw [← hnow]
        unfold State.now
        rw [(State.judgeSender_judges phase x).clock])
  unfold State.judgeSenders
  exact (hall.1 st).trans (if_congr (and_iff_right (mem_stations st)) rfl rfl)

theorem State.windowEvaluation_entry : s.windowEvaluation.table.at st =
    if (s.link.at st).presence = .lost ∧ (s.windowEvaluation.link.at st).presence = .absent then Entry.empty
    else s.table.at st := by
  have hquiet := State.dnfCheckAt_quiet (s := s.picked) (s.pick Config.dnfOrder 3) 0
  rw [State.windowEvaluation_at, Sender.judged_eq, State.windowEvaluation_rest.2.2]
  unfold State.expiryJudged
  rw [State.judgeSenders_entry, hquiet.link, hquiet.store, hquiet.table]
  unfold State.now
  rw [hquiet.clock]
  rfl

/-! ## The events -/

/-- In a rising list a station that no later member follows is the last. -/
theorem getLast_of_greatest {l : List Station} (hsorted : l.Pairwise (· < ·)) (hmem : st ∈ l) (hlast : ∀ z ∈ l, ¬ st < z) :
    l.getLast? = some st := by
  obtain ⟨before, after, rfl⟩ := List.append_of_mem hmem
  have hafter : after = [] := by
    refine List.eq_nil_iff_forall_not_mem.2 fun z hz => ?_
    exact hlast z (by simp [hz]) ((List.pairwise_cons.1 (List.pairwise_append.1 hsorted).2.1).1 z hz)
  rw [hafter]
  simp

/-- A window expiry tells a kind of the Link Monitor where some sender meets its rule, with the highest such sender as detail
(R26). -/
theorem State.windowEvaluation_tells (h : e.ofSession = false) (hclock : e ≠ .clockState) (hover : e ≠ .raceOver) {i : Fin 9}
    (hdetail : e.detail = some i) :
    (s.windowEvaluation.port.latched e = true ↔ s.port.latched e = true ∨ ∃ st, s.tells e st = true) ∧
    (∀ st, s.tells e st = true → (∀ z, st < z → ¬ s.tells e z = true) → s.windowEvaluation.port.details[i] = st) ∧
    ((∀ st, ¬ s.tells e st = true) → s.windowEvaluation.port.details[i] = s.port.details[i]) := by
  have hquiet := State.dnfCheckAt_quiet (s := s.picked) (s.pick Config.dnfOrder 3) 0
  have hfirst : s.port.Unsaid e (s.picked.dnfCheckAt (s.pick Config.dnfOrder 3) 0).port :=
    State.dnfCheckAt_unsaid (s := s.picked) hover _ _
  have hrest : s.expiryJudged.port.Unsaid e s.windowEvaluation.port :=
    ((State.dnfCheckAt_unsaid hover (s.pick Config.dnfOrder 3) 1).trans (State.handOff_unsaid h hclock s.session.phase)).trans
      (State.dnfCheckAt_unsaid hover (s.pick Config.dnfOrder 3) 2)
  obtain ⟨hlatched, hstation⟩ := State.judgeSenders_tells (s := s.picked.dnfCheckAt (s.pick Config.dnfOrder 3) 0)
    (phase := s.session.phase) h
  have htells : ∀ st, (s.picked.dnfCheckAt (s.pick Config.dnfOrder 3) 0).tells e st = s.tells e st := fun st =>
    State.tells_of (by rw [hquiet.link]; rfl) hquiet.store
  simp only [htells] at hlatched hstation
  have hjudged : s.expiryJudged = (s.picked.dnfCheckAt (s.pick Config.dnfOrder 3) 0).judgeSenders s.session.phase := rfl
  have hdetails : s.windowEvaluation.port.details[i] =
      ((stations.filter fun st => s.tells e st).getLast?).getD s.port.details[i] := by
    rw [hrest.detail i hdetail, hjudged, hstation i hdetail, hfirst.detail i hdetail]
  refine ⟨?_, fun st hst hlast => ?_, fun hnone => ?_⟩
  · rw [hrest.latched, hjudged, hlatched, hfirst.latched, Bool.or_eq_true, List.any_eq_true]
    exact or_congr_right ⟨fun ⟨st, _, hst⟩ => ⟨st, hst⟩, fun ⟨st, hst⟩ => ⟨st, mem_stations st, hst⟩⟩
  · rw [hdetails, getLast_of_greatest (st := st)]
    · rfl
    · exact (show stations.Pairwise (· < ·) by decide).sublist List.filter_sublist
    · exact List.mem_filter.2 ⟨mem_stations st, hst⟩
    · exact fun z hz hlt => hlast z hlt (List.mem_filter.1 hz).2
  · rw [hdetails, List.filter_eq_nil_iff.2 fun st _ => hnone st]
    rfl

/-- Which sender tells each kind of the Link Monitor (R27, R29, R30, R32). -/
theorem State.tells_iff :
    (s.tells .peerUp st = true ↔ (s.link.at st).presence = .acquiring ∧ s.store.on ≤ (s.link.at st).count.toNat) ∧
    (s.tells .peerLost st = true ↔ (s.link.at st).presence = .fading ∧ (s.link.at st).count.toNat < s.store.on ∧
      (s.link.at st).count.toNat < s.store.off ∧ min ((s.link.at st).fade + 1) s.store.dropout = s.store.dropout) ∧
    (s.tells .peerBack st = true ↔ (s.link.at st).presence = .lost ∧ s.store.on ≤ (s.link.at st).count.toNat) ∧
    (s.tells .chatter st = true ↔ s.store.window + 2 < (s.link.at st).count.toNat) := by
  have hevent : s.presenceEvent st ≠ some .chatter := State.presenceEvent_ne_chatter
  refine ⟨?_, ?_, ?_, ?_⟩ <;> unfold State.tells
  · unfold State.presenceEvent
    cases (s.link.at st).presence <;> simp
  · unfold State.presenceEvent
    cases (s.link.at st).presence <;> simp
  · unfold State.presenceEvent
    cases (s.link.at st).presence <;> simp
  · simp [hevent]

/-- Each sender's record and entry after a window expiry (R22, R26 to R32, R63). -/
theorem State.windowEvaluation_sender (s : State) (st : Station) :
    let x := s.link.at st
    let y := s.windowEvaluation.link.at st
    y.count = 0 ∧ y.sample = none ∧ y.chatter = (x.chatter || decide (s.store.window + 2 < x.count.toNat)) ∧
    (x.presence = .absent → y.presence = .absent) ∧
    (x.presence = .acquiring → y.presence =
      if s.store.on ≤ x.count.toNat then .present else if x.count = 0 then .absent else .acquiring) ∧
    (x.presence = .present →
      if x.count.toNat < s.store.off then y.presence = .fading ∧ y.fade = 1
      else y.presence = .present ∧ y.fade = x.fade) ∧
    (x.presence = .fading →
      if s.store.on ≤ x.count.toNat then y.presence = .present ∧ y.fade = 0
      else if s.store.off ≤ x.count.toNat then y.presence = .fading ∧ y.fade = x.fade
      else if min (x.fade + 1) s.store.dropout = s.store.dropout then
        y.presence = .lost ∧ y.fade = 0 ∧ y.expiry = 0 ∧ y.lostAt = some s.now
      else y.presence = .fading ∧ y.fade = x.fade + 1) ∧
    (x.presence = .lost →
      if s.store.on ≤ x.count.toNat then y.presence = .present ∧ y.expiry = 0 ∧ y.lostAt = none
      else if s.session.phase.outsideRace then
        (if 32 ≤ x.expiry + 1 then y.presence = .absent ∧ y.expiry = 0 ∧ y.lostAt = none
          else y.presence = .lost ∧ y.expiry = x.expiry + 1 ∧ y.lostAt = x.lostAt)
      else y.presence = .lost ∧ y.expiry = x.expiry ∧ y.lostAt = x.lostAt) := by
  intro x y
  have hy : y = { x.presenceJudged s.store s.session.phase s.now with
      count := 0, sample := none, chatter := (x.chatter || decide (s.store.window + 2 < x.count.toNat)) } := by
    rw [show y = s.windowEvaluation.link.at st from rfl, State.windowEvaluation_at, Sender.judged_eq]
  generalize y = after at hy
  subst hy
  refine ⟨rfl, rfl, rfl, fun h => ?_, fun h => ?_, fun h => ?_, fun h => ?_, fun h => ?_⟩ <;> dsimp only
  · rw [Sender.presenceJudged_absent h, h]
  · exact Sender.presenceJudged_acquiring h
  · rw [Sender.presenceJudged_present h]
    by_cases hfew : x.count.toNat < s.store.off
    · rw [if_pos hfew, if_pos hfew]; exact ⟨rfl, rfl⟩
    · rw [if_neg hfew, if_neg hfew]; exact ⟨h, rfl⟩
  · rw [Sender.presenceJudged_fading h]
    by_cases hon : s.store.on ≤ x.count.toNat
    · rw [if_pos hon, if_pos hon]; exact ⟨rfl, rfl⟩
    rw [if_neg hon, if_neg hon]
    by_cases hoff : s.store.off ≤ x.count.toNat
    · rw [if_pos hoff, if_pos hoff]; exact ⟨h, rfl⟩
    rw [if_neg hoff, if_neg hoff]
    by_cases hdrops : min (x.fade + 1) s.store.dropout = s.store.dropout
    · rw [if_pos hdrops, if_pos hdrops]; exact ⟨rfl, rfl, rfl, rfl⟩
    · rw [if_neg hdrops, if_neg hdrops]
      exact ⟨h, (min_choice (x.fade + 1) s.store.dropout).resolve_right hdrops⟩
  · rw [Sender.presenceJudged_lost h]
    by_cases hon : s.store.on ≤ x.count.toNat
    · rw [if_pos hon, if_pos hon]; exact ⟨rfl, rfl, rfl⟩
    rw [if_neg hon, if_neg hon]
    by_cases hphase : s.session.phase.outsideRace = true
    · rw [if_pos hphase, if_pos hphase]
      by_cases hexpires : 32 ≤ x.expiry + 1
      · rw [if_pos hexpires, if_pos (show Config.lobbyExpiry ≤ x.expiry + 1 from hexpires)]; exact ⟨rfl, rfl, rfl⟩
      · rw [if_neg hexpires, if_neg (show ¬ Config.lobbyExpiry ≤ x.expiry + 1 from hexpires)]; exact ⟨h, rfl, rfl⟩
    · rw [if_neg hphase, if_neg hphase]; exact ⟨h, rfl, rfl⟩

end Sys2Proof.Machine
end

section

/-! What the re-evaluations of a window expiry come to: none, one, those of a countdown, and those of a lobby that may not propose
(R34, R42, R82, R96). -/

namespace Sys2Proof.Machine

variable {s t u r : State} {st z : Station} {m : StationSet}

/-! ## The stages of a window expiry -/

theorem State.expiryJudged_state : s.expiryJudged.clock.state = s.clock.state := by
  rw [State.expiryJudged_judges.clock]; rfl

/-- Outside a race the judgement comes first (R26, R159). -/
theorem State.expiryJudged_idle (hrace : s.session.phase.inRace = false) :
    s.expiryJudged = s.picked.judgeSenders s.session.phase := by
  unfold State.expiryJudged
  rw [State.dnfCheckAt_idle (s := s.picked) hrace]

section
variable (hjudged : s.expiryJudged.session.phase.inRace = false)
include hjudged

/-- Where the judgement has started no race, the steering follows it (R26, R43). -/
theorem State.windowEvaluation_steers : s.windowEvaluation =
    (s.expiryJudged.handOff s.session.phase).dnfCheckAt (s.pick Config.dnfOrder 3) 2 := by
  show ((s.expiryJudged.dnfCheckAt _ 1).handOff _).dnfCheckAt _ 2 = _
  rw [State.dnfCheckAt_idle hjudged]

theorem State.windowEvaluation_state :
    s.windowEvaluation.clock.state = (s.expiryJudged.handOff s.session.phase).clock.state := by
  rw [State.windowEvaluation_steers hjudged, (State.dnfCheckAt_quiet _ _).clock]

/-- Where the steering starts none either, that is the whole (R43). -/
theorem State.windowEvaluation_ends (hsteered : (s.expiryJudged.handOff s.session.phase).session.phase.inRace = false) :
    s.windowEvaluation = s.expiryJudged.handOff s.session.phase := by
  rw [State.windowEvaluation_steers hjudged, State.dnfCheckAt_idle hsteered]

/-- A clock state that stays starts no re-evaluation (R42). -/
theorem State.windowEvaluation_settles (hstate : s.windowEvaluation.clock.state = s.clock.state) :
    s.expiryJudged.Settles s.windowEvaluation := by
  obtain hsettles | ⟨hsteers, -⟩ := State.handOff_splits (s := s.expiryJudged) s.session.phase
  · rw [State.windowEvaluation_ends hjudged (by rw [hsettles.session]; exact hjudged)]
    exact hsettles
  · refine absurd ?_ hsteers
    rw [← State.windowEvaluation_state hjudged, hstate, State.expiryJudged_state]

/-- A clock state that changes starts one (R42). -/
theorem State.windowEvaluation_steered (hstate : s.windowEvaluation.clock.state ≠ s.clock.state) :
    ∃ r, s.expiryJudged.Stirs r ∧ r.table = s.expiryJudged.table ∧
      r.clock = { s.expiryJudged.clock with state := s.windowEvaluation.clock.state } ∧
      (∀ z, r.live z = s.expiryJudged.live z) ∧
      (r.reevaluate.session.phase.inRace = false → r.reevaluate.Settles s.windowEvaluation) := by
  obtain hsettles | ⟨-, r, hstirs, htable, hclock, hlive, hsettles⟩ := State.handOff_splits (s := s.expiryJudged) s.session.phase
  · refine absurd ?_ hstate
    rw [State.windowEvaluation_state hjudged, hsettles.state, State.expiryJudged_state]
  · refine ⟨r, hstirs, htable, by rw [hclock, State.windowEvaluation_state hjudged], hlive, fun hrace => ?_⟩
    rw [State.windowEvaluation_ends hjudged (by rw [hsettles.session]; exact hrace)]
    exact hsettles

end

/-! ## The lobby set at the end -/

/-- A sender that moves, and a clock state that changes, leave the lobby set as R81 gives it (R34, R42, R82). -/
theorem State.windowEvaluation_gathered
    (h : (∃ st, s.moves s.session.phase st) ∨ s.windowEvaluation.clock.state ≠ s.clock.state) : s.windowEvaluation.Gathered := by
  have hbetween := State.dnfCheckAt_quiet (s := s.expiryJudged) (s.pick Config.dnfOrder 3) 1
  have hlast := State.dnfCheckAt_quiet (s := (s.expiryJudged.dnfCheckAt (s.pick Config.dnfOrder 3) 1).handOff
    s.session.phase) (s.pick Config.dnfOrder 3) 2
  have hwhole : s.windowEvaluation = ((s.expiryJudged.dnfCheckAt (s.pick Config.dnfOrder 3) 1).handOff
    s.session.phase).dnfCheckAt (s.pick Config.dnfOrder 3) 2 := rfl
  suffices hsteered : State.Gathered ((s.expiryJudged.dnfCheckAt (s.pick Config.dnfOrder 3) 1).handOff s.session.phase) by
    rw [hwhole]
    exact hsteered.dnfCheckAt _ _
  obtain hsettles | ⟨-, r, -, -, -, -, hsettles⟩ := State.handOff_splits
    (s := s.expiryJudged.dnfCheckAt (s.pick Config.dnfOrder 3) 1) s.session.phase
  · obtain ⟨st, hmoves⟩ | hsteers := h
    · have hquiet := State.dnfCheckAt_quiet (s := s.picked) (s.pick Config.dnfOrder 3) 0
      have hjudged : s.expiryJudged.Gathered := State.judgeSenders_gathered (st := st)
        ((State.moves_of (s := s) (by rw [hquiet.link]; rfl) hquiet.store).2 hmoves)
      exact (hjudged.dnfCheckAt _ _).settles hsettles
    · refine absurd ?_ hsteers
      rw [hwhole, hlast.clock, hsettles.state, hbetween.clock, State.expiryJudged_state]
  · exact State.reevaluate_gathered.settles hsettles

/-! ## None, and one -/

section
variable (hrace : s.session.phase.inRace = false)
include hrace

theorem State.expiryJudged_still (hnone : ∀ st, ¬ s.moves s.session.phase st) : s.Alike s.expiryJudged := by
  rw [State.expiryJudged_idle hrace]
  exact State.picked_alike.trans (State.judgeSenders_still fun z =>
    (State.moves_of (s := s) (t := s.picked) rfl rfl).not.2 (hnone z))

/-- With no sender that moves and no change of clock state the session stays (R82). -/
theorem State.windowEvaluation_still (hnone : ∀ st, ¬ s.moves s.session.phase st)
    (hstate : s.windowEvaluation.clock.state = s.clock.state) : s.Settles s.windowEvaluation := by
  have hstill := State.expiryJudged_still hrace hnone
  exact hstill.settles.trans (State.windowEvaluation_settles (by rw [hstill.session]; exact hrace) hstate)

/-- With one sender that moves and no change of clock state it is what one re-evaluation makes of it (R34, R82). -/
theorem State.windowEvaluation_one (hmoves : s.moves s.session.phase st) (honly : ∀ z, s.moves s.session.phase z → z = st)
    (hstate : s.windowEvaluation.clock.state = s.clock.state) :
    ∃ r, s.Stirs r ∧ r.clock = s.clock ∧ r.table = s.windowEvaluation.table ∧ (∀ z, r.live z = s.windowEvaluation.live z) ∧
      (r.reevaluate.session.phase.inRace = false → r.reevaluate.Settles s.windowEvaluation) := by
  have hpicked : ∀ z, s.picked.moves s.session.phase z ↔ s.moves s.session.phase z := fun z => State.moves_of rfl rfl
  obtain ⟨r, hstirred, halike⟩ := State.judgeSenders_one (s := s.picked) (phase := s.session.phase) hrace ((hpicked st).2 hmoves)
    fun z hz => honly z ((hpicked z).1 hz)
  rw [← State.expiryJudged_idle hrace] at halike
  refine ⟨r, State.picked_alike.toStirs.trans hstirred.toStirs, hstirred.clock, ?_, fun z => ?_, fun hended => ?_⟩
  · rw [State.windowEvaluation_rest.2.2, halike.table, State.reevaluate_table]
  · have hlive : s.windowEvaluation.live z = s.expiryJudged.live z := by
      unfold State.live
      rw [State.windowEvaluation_rest.1, Link.newWindow_at]
    rw [hlive, halike.live]
    unfold State.live
    rw [State.reevaluate_at]
  · exact halike.settles.trans (State.windowEvaluation_settles (by rw [halike.session]; exact hended) hstate)

/-- With none and a change of clock state it is what one re-evaluation makes of that (R42, R82). -/
theorem State.windowEvaluation_clock (hnone : ∀ st, ¬ s.moves s.session.phase st)
    (hstate : s.windowEvaluation.clock.state ≠ s.clock.state) :
    ∃ r, s.Stirs r ∧ r.clock = { s.clock with state := s.windowEvaluation.clock.state } ∧ r.table = s.windowEvaluation.table ∧
      (∀ z, r.live z = s.windowEvaluation.live z) ∧
      (r.reevaluate.session.phase.inRace = false → r.reevaluate.Settles s.windowEvaluation) := by
  have hstill := State.expiryJudged_still hrace hnone
  obtain ⟨r, hstirs, htable, hclock, hlive, hsettles⟩ :=
    State.windowEvaluation_steered (by rw [hstill.session]; exact hrace) hstate
  refine ⟨r, hstill.toStirs.trans hstirs, by rw [hclock, hstill.clock], ?_, fun z => ?_, hsettles⟩
  · rw [State.windowEvaluation_rest.2.2, htable]
  · rw [hlive]
    unfold State.live
    rw [State.windowEvaluation_rest.1, Link.newWindow_at]

end

/-! ## A countdown that waits -/

theorem State.Waits.picked (w : s.Waits m) : s.picked.Waits m := w.settles State.picked_alike.settles

/-- The lowest-numbered other roster member that falls LOST aborts the countdown (R96). -/
theorem State.Waits.windowEvaluation_member (w : s.Waits m) (hfalls : stations.find? (s.fallsOut m) = some st) :
    s.Aborts .member (some st) s.windowEvaluation := by
  have hjudged := w.picked.judgeSenders (phase := s.session.phase)
  rw [show s.picked.fallsOut m = s.fallsOut m from rfl, hfalls, ← State.expiryJudged_idle w.inRace] at hjudged
  have haborts : s.Aborts .member (some st) s.expiryJudged := ⟨hjudged.session, hjudged.motion, hjudged.aborted, hjudged.ruled⟩
  by_cases hstate : s.windowEvaluation.clock.state = s.clock.state
  · exact haborts.settles (State.windowEvaluation_settles haborts.inRace hstate)
  · obtain ⟨r, hstirs, -, -, -, hsettles⟩ := State.windowEvaluation_steered haborts.inRace hstate
    have hagain := haborts.reevaluate hstirs
    exact hagain.settles (hsettles hagain.inRace)

/-- With none that falls, a clock no longer LOCKED aborts it, and else it goes on (R96). -/
theorem State.Waits.windowEvaluation_clock (w : s.Waits m) (hfalls : stations.find? (s.fallsOut m) = none) :
    (s.windowEvaluation.clock.state ≠ s.clock.state → s.Aborts .clock none s.windowEvaluation) ∧
    (s.windowEvaluation.clock.state = s.clock.state → s.Regathers s.windowEvaluation) := by
  have hjudged := w.picked.judgeSenders (phase := s.session.phase)
  rw [show s.picked.fallsOut m = s.fallsOut m from rfl, hfalls, ← State.expiryJudged_idle w.inRace] at hjudged
  obtain ⟨hwaits, hregathers⟩ := hjudged
  have hgoes : s.Regathers s.expiryJudged := ⟨hregathers.session, hregathers.motion, hregathers.straps, hregathers.aborted⟩
  refine ⟨fun hstate => ?_, fun hstate => ?_⟩
  · obtain ⟨r, hstirs, -, hclock, -, hsettles⟩ := State.windowEvaluation_steered hwaits.inRace hstate
    have hlocked : s.clock.state = .locked := (State.breach_none_iff.1 w.breach).1
    have hbreach : r.breach = some (.clock, none) := State.breach_clock (by rw [hclock]; exact fun h => hstate (h.trans hlocked.symm))
    have haborts : r.reevaluate = r.recomputeLobby.abort .clock none :=
      State.reevaluate_abort (by rw [hstirs.session]; exact hwaits.countdown) hbreach
    have hends : s.Aborts .clock none r.reevaluate := by
      rw [haborts]
      exact (hgoes.trans hstirs.regathers).abort
    exact hends.settles (hsettles hends.inRace)
  · exact hgoes.trans (State.windowEvaluation_settles hwaits.inRace hstate).toStirs.regathers

theorem State.fallsOut_iff : s.fallsOut m st = true ↔ member m st = true ∧ st ≠ s.own ∧
    ((s.link.at st).presence = .fading ∧ (s.link.at st).count.toNat < s.store.on ∧ (s.link.at st).count.toNat < s.store.off ∧
      min ((s.link.at st).fade + 1) s.store.dropout = s.store.dropout) := by
  unfold State.fallsOut
  rw [Bool.and_eq_true, Bool.and_eq_true, decide_eq_true_eq, decide_eq_true_eq, and_assoc]

/-! ## A lobby that may not propose -/

/-- In a lobby with the player not ready or an abort held the expiry only resolves the rule (R82 to R86). -/
theorem State.windowEvaluation_lobby (hphase : s.session.phase = .lobby)
    (hidle : s.session.ready = false ∨ s.session.abortHold ≠ none) : s.Resolves s.windowEvaluation ∧
      ((∃ st, s.moves s.session.phase st) ∨ s.windowEvaluation.clock.state ≠ s.clock.state → s.windowEvaluation.Ruled) := by
  have hrace : s.session.phase.inRace = false := by rw [hphase]; rfl
  obtain ⟨hresolves, hruled⟩ := State.judgeSenders_lobby (s := s.picked) (phase := s.session.phase) hphase hidle
  rw [← State.expiryJudged_idle hrace] at hresolves hruled
  have hjudged : s.Resolves s.expiryJudged :=
    ⟨hresolves.session, hresolves.motion, hresolves.straps, hresolves.aborted, hresolves.change, hresolves.down⟩
  have hjudgedRace : s.expiryJudged.session.phase.inRace = false := by rw [hjudged.phase_eq]; exact hrace
  by_cases hstate : s.windowEvaluation.clock.state = s.clock.state
  · have hsettles := State.windowEvaluation_settles hjudgedRace hstate
    refine ⟨hjudged.trans hsettles.toStirs.resolves, fun h => ?_⟩
    obtain ⟨st, hmoves⟩ | hsteers := h
    · exact (hruled ⟨st, (State.moves_of (s := s) rfl rfl).2 hmoves⟩).settles hsettles
    · exact absurd hstate hsteers
  · obtain ⟨r, hstirs, -, -, -, hsettles⟩ := State.windowEvaluation_steered hjudgedRace hstate
    obtain ⟨hagain, hruledAgain⟩ := hjudged.reevaluate hphase hidle hstirs
    have hsettles := hsettles (by rw [(hjudged.trans hagain).phase_eq]; exact hrace)
    exact ⟨(hjudged.trans hagain).trans hsettles.toStirs.resolves, fun _ => hruledAgain.settles hsettles⟩

/-! ## The obligation -/

/-- Which senders have the Session Controller re-evaluate (R34, R63). -/
theorem State.moves_iff {phase : Phase} : s.moves phase st ↔
    ((s.link.at st).presence = .fading ∧ (s.link.at st).count.toNat < s.store.on ∧
      (s.link.at st).count.toNat < s.store.off ∧ min ((s.link.at st).fade + 1) s.store.dropout = s.store.dropout) ∨
    (((s.link.at st).presence = .acquiring ∨ (s.link.at st).presence = .lost) ∧
      s.store.on ≤ (s.link.at st).count.toNat) ∨
    ((s.link.at st).presence = .lost ∧ (s.link.at st).count.toNat < s.store.on ∧
      phase.outsideRace = true ∧ 32 ≤ (s.link.at st).expiry + 1) := by
  unfold State.moves
  tauto

/-- Settles O46. -/
theorem windowExpiryJudgesEverySender : Obligations.WindowExpiryJudgesEverySender := by
  have hexec : ∀ s : State, s.inReset = false → s.link.window = 0 → exec .windowExpiry s = .next s.windowEvaluation :=
    fun s hreset hwindow => exec_caused (i := .windowExpiry) rfl hreset (by simp [State.windowOver, hwindow])
  refine ⟨fun s hreset hwindow => ?_, fun s t hreset hwindow hstep => ?_⟩
  · have hkeeps := State.windowEvaluation_keeps (s := s)
    have hjudges := State.expiryJudged_judges (s := s)
    obtain ⟨hlink, hclock, htable⟩ := State.windowEvaluation_rest (s := s)
    refine ⟨s.windowEvaluation, hexec s hreset hwindow, by rw [hlink]; rfl, fun st => ?_, ?_, by rw [hclock, Clock.steered_t],
      hkeeps.pending, hkeeps.choices, hkeeps.inReset.trans hreset, hkeeps.straps, hkeeps.store, hkeeps.bus, hkeeps.patterns,
      by rw [htable, hjudges.queue]; rfl, by rw [htable, hjudges.freeze]; rfl, hkeeps.port.mask, hkeeps.port.state,
      hkeeps.port.response, hkeeps.port.latch⟩
    · intro x y
      obtain ⟨hcount, hsample, hchatter, habsent, hacquiring, hpresent, hfading, hlost⟩ := State.windowEvaluation_sender s st
      exact ⟨hcount, hsample, hchatter, habsent, hacquiring, hpresent, hfading, hlost, State.windowEvaluation_entry⟩
    · intro rise loss back chatters e i meets hkind
      have htold : e.ofSession = false ∧ e ≠ .clockState ∧ e ≠ .raceOver ∧ e.detail = some i ∧
          ∀ st, meets st ↔ s.tells e st = true := by
        obtain ⟨rfl, rfl, rfl⟩ | ⟨rfl, rfl, rfl⟩ | ⟨rfl, rfl, rfl⟩ | ⟨rfl, rfl, rfl⟩ := hkind
        · exact ⟨rfl, nofun, nofun, rfl, fun st => State.tells_iff.1.symm⟩
        · exact ⟨rfl, nofun, nofun, rfl, fun st => State.tells_iff.2.1.symm⟩
        · exact ⟨rfl, nofun, nofun, rfl, fun st => State.tells_iff.2.2.1.symm⟩
        · exact ⟨rfl, nofun, nofun, rfl, fun st => State.tells_iff.2.2.2.symm⟩
      obtain ⟨hsession, hnotClock, hnotOver, hdetail, hmeets⟩ := htold
      simp only [hmeets]
      exact State.windowEvaluation_tells hsession hnotClock hnotOver hdetail
  · cases (hexec s hreset hwindow).symm.trans hstep
    intro falls moves steered same regathered resolved aborted
    have hmoves : ∀ st, moves st ↔ s.moves s.session.phase st := fun st => State.moves_iff.symm
    refine ⟨fun h x => ?_, fun hrace hnone hstate => ?_, fun hrace h => ?_, fun roster hroster hbreach hphase => ?_,
      fun hphase hidle => ?_⟩
    · simp only [hmoves] at h
      rw [State.windowEvaluation_gathered h]
      exact member_setOf _ _
    · simp only [hmoves] at hnone
      have h := State.windowEvaluation_still hrace hnone (not_not.1 hstate)
      exact ⟨h.session, h.motion, h.standings, h.prox⟩
    · simp only [hmoves] at h
      obtain ⟨r, hstirs, hclock, htable, hlive, hsettles⟩ : ∃ r, s.Stirs r ∧
          r.clock = { s.clock with state := s.windowEvaluation.clock.state } ∧ r.table = s.windowEvaluation.table ∧
          (∀ z, r.live z = s.windowEvaluation.live z) ∧
          (r.reevaluate.session.phase.inRace = false → r.reevaluate.Settles s.windowEvaluation) := by
        obtain ⟨⟨st, hst, honly⟩, hstate⟩ | ⟨hnone, hstate⟩ := h
        · obtain ⟨r, hstirs, hclock, hrest⟩ := State.windowEvaluation_one hrace hst honly (not_not.1 hstate)
          exact ⟨r, hstirs, by rw [hclock, not_not.1 hstate], hrest⟩
        · exact State.windowEvaluation_clock hrace hnone hstate
      exact ⟨r, hstirs.session, hstirs.motion, hstirs.standings, hstirs.prox, hstirs.store, hstirs.straps, htable, hclock, hlive,
        fun hended => ⟨(hsettles hended).session, (hsettles hended).motion, (hsettles hended).standings, (hsettles hended).prox⟩⟩
    · have hwaits : s.Waits roster := ⟨hphase, hroster, hbreach⟩
      have haborted : ∀ {cause who}, s.Aborts cause who s.windowEvaluation → aborted cause who := fun h =>
        ⟨by rw [h.session], Session.proposalOf_none (by rw [h.session]), h.motion, h.aborted, h.ruled⟩
      intro out
      have hout : ∀ st, out st ↔ s.fallsOut roster st = true := fun st => State.fallsOut_iff.symm
      have hfind : (∀ st, ¬ out st) → stations.find? (s.fallsOut roster) = none := fun hnone =>
        List.find?_eq_none.2 fun z _ => (hout z).not.1 (hnone z)
      refine ⟨fun st hst hleast => ?_, fun hnone hstate => ?_, fun hnone hstate => ?_⟩
      · refine haborted (hwaits.windowEvaluation_member ((find_iff_lowest (by decide)).2
          ⟨mem_stations st, (hout st).1 hst, fun z _ hlt => ?_⟩))
        rw [← Bool.not_eq_true, ← hout]
        exact fun hz => absurd hlt (not_lt.2 (hleast z hz))
      · exact haborted ((hwaits.windowEvaluation_clock (hfind hnone)).1 hstate)
      · have h := (hwaits.windowEvaluation_clock (hfind hnone)).2 (not_not.1 hstate)
        exact ⟨h.session, h.motion, h.aborted⟩
    · obtain ⟨h, hruled⟩ := State.windowEvaluation_lobby hphase hidle
      simp only [hmoves]
      exact ⟨h.session, h.motion, h.aborted, fun hrule => h.change (.inr hrule),
        fun hmark hclear => h.down (.inr ⟨hmark, hclear⟩), hruled⟩

end Sys2Proof.Machine
end

section

/-! Frames as bytes: what is sent is read back, what is read has the form of R4 to R7, and where each field stands
(11, "Formats"). -/

namespace Sys2Proof.Machine

variable {f : Frame} {stamp : Time}

/-! ## Reading what was sent -/

/-- The part of a run after its head splits into the body and the two CRC bytes. -/
theorem body_before_tail {body tail : List Byte} (h : tail.length = 2) :
    (body ++ tail).take ((body ++ tail).length - 2) = body ∧ (body ++ tail).drop ((body ++ tail).length - 2) = tail := by
  have hlength : (body ++ tail).length - 2 = body.length := by simp [h]
  rw [hlength]
  simp

/-- The bytes of a frame read as that frame with its stamp (R18). -/
theorem readFrame_bytes (hbeacon : ∀ b, f.body = .beacon b → b.agreed.isSome = true → b.proposal.isSome = true)
    (hcar : ∀ c, f.body = .car c → c.lap.toNat ≤ 5 ∧ c.position.toNat ≤ 7999999) :
    readFrame (f.bytes stamp) = some (f, stamp) := by
  obtain ⟨hkind, hsender⟩ := kindByte_read f
  obtain ⟨htake, hdrop⟩ := body_before_tail (body := f.body.bytes) (be2_length (crc16 (f.covered stamp)))
  have hcovered : f.covered stamp = [f.kindByte, f.tag, stamp.extractLsb' 24 8, stamp.extractLsb' 16 8,
      stamp.extractLsb' 8 8, stamp.extractLsb' 0 8] ++ f.body.bytes := rfl
  simp only [Frame.bytes, hcovered, List.cons_append, List.nil_append] at htake hdrop ⊢
  simp only [readFrame, htake, hdrop, hkind, hsender, readBody_bytes f.body hbeacon hcar, of4_be4, crcPasses,
    List.cons_append, List.nil_append, beq_self_eq_true, and_self, if_true, Option.map_some]

theorem optionalTime_length (x : Option Time) : (optionalTime x).length = if x.isSome then 4 else 0 := by
  cases x <;> rfl

/-- A frame has the length of R4. -/
theorem bytes_length (f : Frame) (stamp : Time) : (f.bytes stamp).length = f.length := by
  have hbytes : (f.bytes stamp).length = f.body.bytes.length + 9 := by
    simp [Frame.bytes, Frame.covered, be2_length, be4_length]
    omega
  rw [hbytes, Frame.length]
  cases f.body with
  | beacon b =>
    simp only [Body.bytes, beaconBody, beaconHead, List.length_append, optionalTime_length, List.length_cons,
      List.length_nil, be2_length]
    omega
  | car c =>
    simp only [Body.bytes, carBody, carHead, List.length_append, optionalTime_length, List.length_cons, List.length_nil,
      be2_length, be3_length, be4_length]
    split <;> rfl

/-! ## The form of what is read -/

/-- The optional times of a beacon are as long as they are many, and an agreed start stands with a proposal (R4, R5). -/
theorem readBeaconTimes_form {p a : Bool} {rest : List Byte} {proposal agreed : Option Time}
    (h : readBeaconTimes p a rest = some (proposal, agreed)) :
    rest.length = (if proposal.isSome then 4 else 0) + (if agreed.isSome then 4 else 0) ∧
      (agreed.isSome = true → proposal.isSome = true) := by
  unfold readBeaconTimes at h
  split at h
  · split at h <;> cases h
    simp
  · split at h <;> cases h
    simp
  · split at h <;> cases h
    simp
  · cases h

theorem readFinish_length {e : Bool} {rest : List Byte} {finish : Option Time} (h : readFinish e rest = some finish) :
    rest.length = if finish.isSome then 4 else 0 := by
  unfold readFinish at h
  split at h
  · split at h <;> cases h
    rfl
  · split at h <;> cases h
    rfl
  · cases h

/-- A body that is read has the length and the limits of R4 to R6. -/
theorem readBody_form {k : BitVec 4} {l : List Byte} {b : Body} (h : readBody k l = some b) :
    l.length = b.bytes.length ∧ (∀ x, b = .beacon x → x.agreed.isSome = true → x.proposal.isSome = true) ∧
      ∀ c, b = .car c → c.lap.toNat ≤ 5 ∧ c.position.toNat ≤ 7999999 := by
  unfold readBody at h
  split at h
  · obtain ⟨x, hread, rfl⟩ := Option.map_eq_some_iff.1 h
    unfold readBeacon at hread
    split at hread
    case h_2 => cases hread
    split at hread
    case h_2 => cases hread
    next htimes =>
      cases hread
      obtain ⟨hlength, hagreed⟩ := readBeaconTimes_form htimes
      refine ⟨?_, fun _ hx => by cases hx; exact hagreed, nofun⟩
      simp only [Body.bytes, beaconBody, beaconHead, List.length_append, optionalTime_length, List.length_cons,
        List.length_nil, be2_length, hlength]
      omega
  · split at h
    case isFalse => cases h
    obtain ⟨c, hread, rfl⟩ := Option.map_eq_some_iff.1 h
    unfold readCar at hread
    split at hread
    case h_2 => cases hread
    split at hread
    case isFalse => cases hread
    next hlimits =>
      obtain ⟨finish, hfinish, rfl⟩ := Option.map_eq_some_iff.1 hread
      refine ⟨?_, nofun, fun _ hc => by cases hc; exact hlimits⟩
      simp only [Body.bytes, carBody, carHead, List.length_append, optionalTime_length, List.length_cons,
        List.length_nil, be2_length, be3_length, be4_length, readFinish_length hfinish]
      omega

/-- A run that is read begins with the sync byte and ends with the CRC of what stands between (R4 to R7). -/
theorem readFrame_form {l : List Byte} (h : readFrame l = some (f, stamp)) :
    l.length = f.length ∧
      (∃ covered tail, l = 0x5D#8 :: (covered ++ tail) ∧ tail = be2 (crc16 covered)) ∧
      (∀ b, f.body = .beacon b → b.agreed.isSome = true → b.proposal.isSome = true) ∧
      ∀ c, f.body = .car c → c.lap.toNat ≤ 5 ∧ c.position.toNat ≤ 7999999 := by
  unfold readFrame at h
  split at h
  case h_2 => cases h
  next sync head tag s3 s2 s1 s0 rest =>
    dsimp only at h
    split at h
    case isFalse => cases h
    next hcheck =>
      obtain ⟨rfl, hcrc⟩ := hcheck
      obtain ⟨b, hbody, hframe⟩ := Option.map_eq_some_iff.1 h
      cases hframe
      obtain ⟨hlength, hbeacon, hcar⟩ := readBody_form hbody
      have htail := eq_of_beq hcrc
      have htwo : (rest.drop (rest.length - 2)).length = 2 := by rw [htail]; rfl
      refine ⟨?_, ⟨_, _, congrArg _ ?_, htail⟩, hbeacon, hcar⟩
      · rw [← bytes_length _ 0]
        simp only [Frame.bytes, Frame.covered, List.length_append, List.length_cons, List.length_nil, be4_length,
          be2_length, ← hlength]
        simp at htwo ⊢
        omega
      · simp only [List.cons_append, List.nil_append, List.take_append_drop]

/-! ## Where the fields stand -/

/-- The kind/sender byte holds the kind above the sender (11, "Frame head and tail"). -/
theorem kindByte_eq (f : Frame) : f.kindByte =
    (match f.body with
      | .beacon _ => 0x10#8
      | .car _ => 0x20#8) ||| BitVec.ofNat 8 f.sender.val := by
  unfold Frame.kindByte
  generalize f.sender = st
  cases f.body <;> (simp only [Body.kind]; revert st; decide)

theorem optionalTime_eq (x : Option Time) :
    optionalTime x = x.elim [] fun t => [t.extractLsb' 24 8, t.extractLsb' 16 8, t.extractLsb' 8 8, t.extractLsb' 0 8] := by
  cases x <;> rfl

theorem bitAt_eq (b : Bool) (i : Nat) : bitAt b i = if b then 1#8 <<< i else 0 := rfl

theorem beaconFlags_eq (b : Beacon) : beaconFlags b =
    (match b.phase with
      | .lobby => 0x01#8
      | .proposing => 0x02#8
      | .armed => 0x03#8) ||| (if b.ready then 0x10#8 else 0) ||| (if b.abort then 0x20#8 else 0) |||
      (if b.proposal.isSome then 0x40#8 else 0) ||| (if b.agreed.isSome then 0x80#8 else 0) := by
  unfold beaconFlags
  cases b.phase <;> rfl

/-- Settles O54: each byte read back by the Wire laws, and the form of a run from each check of R18. -/
theorem framesAndRunsAgree : Obligations.FramesAndRunsAgree := by
  refine ⟨fun f stamp hbeacon hcar => ⟨?_, bytes_length f stamp⟩, fun run f stamp h => ?_, fun f stamp => ?_,
    fun b => congrArg (· :: _) (beaconFlags_eq b), fun c => rfl, rfl, fun bs b => ?_⟩
  · have hclean : ((f.bytes stamp).map fun b => ({ value := b, framingError := false } : RxByte)).any
        RxByte.framingError = false := by simp
    have hvalues : ((f.bytes stamp).map fun b => ({ value := b, framingError := false } : RxByte)).map
        RxByte.value = f.bytes stamp := (List.map_map ..).trans (List.map_id _)
    rw [judgeRun, hclean, hvalues]
    exact readFrame_bytes hbeacon hcar
  · unfold judgeRun at h
    split at h
    case isTrue => cases h
    next hclean =>
      obtain ⟨hlength, hcrc, hbeacon, hcar⟩ := readFrame_form h
      exact ⟨by simpa using hclean, by simpa using hlength, hcrc, hbeacon, hcar⟩
  · intro four kind body covered
    have hcovered : f.covered stamp = covered := by
      simp only [Frame.covered, kindByte_eq]
      cases hbody : f.body <;>
        simp only [covered, kind, body, four, hbody, Body.bytes, beaconBody, carBody, optionalTime_eq, be4]
    rw [Frame.bytes, hcovered]
    rfl
  · simp only [crc16, List.foldl_append, List.foldl_cons, List.foldl_nil]
    rfl

end Sys2Proof.Machine
end

section

/-! The Proximity Monitor: who is eligible and how it is measured, the transitions of one evaluation, and what a sweep step
makes of every station (R135 to R148). -/

namespace Sys2Proof.Machine

variable {s : State} {m : Measure} {st : Station}

/-! ## The windows and the transitions -/

theorem entersContact_iff : s.entersContact m = true ↔ contactOn s.heldOptions = true ∧
    (m.gap.natAbs : Int) ≤ s.store.contactLength ∧ (m.across.natAbs : Int) ≤ s.store.contactWidth := by
  simp [State.entersContact, Store.inContact]

theorem inContact_margins_iff {c : Store} : c.inContact m Config.marginLength Config.marginWidth = true ↔
    (m.gap.natAbs : Int) ≤ c.contactLength + 100 ∧ (m.across.natAbs : Int) ≤ c.contactWidth + 5 := by
  rw [Store.inContact, Bool.and_eq_true, decide_eq_true_iff, decide_eq_true_iff]
  rfl

theorem entersDraft_iff : s.entersDraft m = true ↔ draftOn s.heldOptions = true ∧ 0 < m.gap ∧
    m.gap ≤ s.store.draftLength ∧ (m.across.natAbs : Int) ≤ s.store.draftWidth := by
  simp [State.entersDraft, Store.inDraft, and_assoc]

theorem inDraft_margins_iff {c : Store} : c.inDraft m Config.marginLength Config.marginWidth = true ↔
    0 < m.gap ∧ m.gap ≤ c.draftLength + 100 ∧ (m.across.natAbs : Int) ≤ c.draftWidth + 5 := by
  rw [Store.inDraft, Bool.and_eq_true, Bool.and_eq_true, decide_eq_true_iff, decide_eq_true_iff, decide_eq_true_iff,
    and_assoc]
  rfl

/-- A row of the table takes CONTACT first and DRAFT next (R145 to R147). -/
theorem contactFirst_iff (contact draft : Bool) :
    ((if contact then ProxState.contact else if draft then .draft else .clear) = .contact ↔ contact = true) ∧
    ((if contact then ProxState.contact else if draft then .draft else .clear) = .draft ↔
      ¬ contact = true ∧ draft = true) := by
  revert contact draft
  decide

/-- Settles O37: the transitions from each state, each window written out. -/
theorem proximityTransitions : Obligations.ProximityTransitions := by
  intro s m contactEntry contactHeld draftEntry draftHeld
  have hentry : s.entersContact m = true ↔ contactEntry := entersContact_iff
  have hdraft : s.entersDraft m = true ↔ draftEntry := entersDraft_iff
  have hcontactHeld : _ ↔ contactHeld := inContact_margins_iff (c := s.store)
  have hdraftHeld : _ ↔ draftHeld := inDraft_margins_iff (c := s.store)
  rw [← hentry, ← hdraft, ← hcontactHeld, ← hdraftHeld]
  obtain ⟨hclear, hclear'⟩ := contactFirst_iff (s.entersContact m) (s.entersDraft m)
  obtain ⟨hcontact, hcontact'⟩ := contactFirst_iff (s.store.inContact m Config.marginLength Config.marginWidth)
    (s.entersDraft m)
  obtain ⟨hheld, hheld'⟩ := contactFirst_iff (s.entersContact m)
    (s.store.inDraft m Config.marginLength Config.marginWidth)
  exact ⟨hclear, hclear', hcontact, hcontact', hheld, hheld'⟩

/-! ## The events of a sweep step -/

/-- A port after an occurrence that takes place only under a condition (R148). -/
def Port.occurIf (p : Port) (c : Prop) [Decidable c] (e : Event) (z : Station) : Port :=
  if c then p.occur e (some z) else p

theorem Port.occurIf_latched (p : Port) (c : Prop) [Decidable c] (e e' : Event) (z : Station) :
    (p.occurIf c e z).latched e' = true ↔ p.latched e' = true ∨ (e' = e ∧ c) := by
  unfold Port.occurIf
  split <;> simp [Port.occur_latched, *]

theorem Port.occurIf_told {c : Prop} [Decidable c] (p : Port) (e : Event) (z : Station) (i : Fin 9) (h : c)
    (hdetail : e.detail = some i) : (p.occurIf c e z).details[i] = z := by
  rw [Port.occurIf, if_pos h, Port.occur_details, if_pos hdetail]
  rfl

theorem Port.occurIf_untold {c : Prop} [Decidable c] (p : Port) (e : Event) (z : Station) (i : Fin 9)
    (h : c → e.detail ≠ some i) : (p.occurIf c e z).details[i] = p.details[i] := by
  unfold Port.occurIf
  split
  · next hc => rw [Port.occur_details, if_neg (h hc)]
  · rfl

theorem Port.occurIf_rest (p : Port) (c : Prop) [Decidable c] (e : Event) (z : Station) :
    (p.occurIf c e z).mask = p.mask ∧ (p.occurIf c e z).state = p.state ∧
      (p.occurIf c e z).response = p.response := by
  unfold Port.occurIf
  split <;> exact ⟨rfl, rfl, rfl⟩

theorem State.signalContact_port (s : State) (z : Station) (before after : ProxState) :
    s.signalContact z before after =
      s.setPort (s.port.occurIf (before ≠ .contact ∧ after = .contact) .contact z) := by
  unfold State.signalContact Port.occurIf
  split <;> rfl

theorem State.signalDraft_port (s : State) (z : Station) (before after : ProxState) :
    s.signalDraft z before after =
      s.setPort (s.port.occurIf (¬ (before = .draft ↔ after = .draft)) .draftChange z) := by
  unfold State.signalDraft Port.occurIf
  cases before <;> cases after <;> rfl

/-- A station passed is cleared, and its leaving of DRAFT latches (R136, R148). -/
theorem State.passIneligible_eq (s : State) (z : Station) : s.passIneligible z =
    (s.setProx (s.prox.put z { s.prox.at z with state := .clear })).setPort
      (s.port.occurIf ((s.prox.at z).state = .draft) .draftChange z) := by
  unfold State.passIneligible
  dsimp only
  rw [State.signalDraft_port]
  unfold Port.occurIf
  cases (s.prox.at z).state <;> rfl

/-- A peer evaluated moves by its entry and its two events (R145 to R148). -/
theorem State.evaluatePeer_eq (s : State) (z : Station) : s.evaluatePeer z =
    (s.setProx (s.prox.put z (s.evaluated z))).setPort
      ((s.port.occurIf ((s.prox.at z).state ≠ .contact ∧ (s.evaluated z).state = .contact) .contact z).occurIf
        (¬ ((s.prox.at z).state = .draft ↔ (s.evaluated z).state = .draft)) .draftChange z) := by
  have hunfold : s.evaluatePeer z = ((s.setProx (s.prox.put z (s.evaluated z))).signalContact z (s.prox.at z).state
      (s.evaluated z).state).signalDraft z (s.prox.at z).state (s.evaluated z).state := rfl
  rw [hunfold, State.signalDraft_port, State.signalContact_port]
  rfl

/-! ## The stations passed -/

/-- The state after so many ineligible stations have been passed from a position on (R136). -/
def State.passing (s : State) (pos : Station) : Nat → State
  | 0 => s
  | k + 1 => (s.passing pos k).passIneligible (pos + Fin.ofNat 16 k)

/-- What passing the first `k` stations from a position leaves: they are cleared, DRAFT_CHANGE latches for each of them in
DRAFT, and the last of those is its detail (R136, R148). -/
structure State.PassedOver (s : State) (pos : Station) (k : Nat) (t : State) : Prop where
  moves : t = (s.setProx t.prox).setPort t.port
  sweep : t.prox = { s.prox with peers := t.prox.peers }
  port : t.port.mask = s.port.mask ∧ t.port.state = s.port.state ∧ t.port.response = s.port.response
  passed : ∀ m : Fin 16, m.val < k → t.prox.at (pos + m) = { s.prox.at (pos + m) with state := .clear }
  ahead : ∀ m : Fin 16, ¬ m.val < k → t.prox.at (pos + m) = s.prox.at (pos + m)
  latched : ∀ e, t.port.latched e = true ↔ s.port.latched e = true ∨
    (e = .draftChange ∧ ∃ m : Fin 16, m.val < k ∧ (s.prox.at (pos + m)).state = .draft)
  last : ∀ m : Fin 16, m.val < k → (s.prox.at (pos + m)).state = .draft →
    (∀ m' : Fin 16, m'.val < k → m < m' → (s.prox.at (pos + m')).state ≠ .draft) →
    t.port.details[(6 : Fin 9)] = pos + m
  untold : (∀ m : Fin 16, m.val < k → (s.prox.at (pos + m)).state ≠ .draft) →
    t.port.details[(6 : Fin 9)] = s.port.details[(6 : Fin 9)]
  details : ∀ i : Fin 9, i ≠ 6 → t.port.details[i] = s.port.details[i]

/-- One station more is passed. -/
theorem State.PassedOver.next {t : State} {pos : Station} (j : Fin 16) (h : s.PassedOver pos j.val t) :
    s.PassedOver pos (j.val + 1) (t.passIneligible (pos + j)) := by
  have hlt : ∀ m : Fin 16, m.val < j.val + 1 ↔ m.val < j.val ∨ m = j := fun m => by omega
  have hentry : t.prox.at (pos + j) = s.prox.at (pos + j) := h.ahead j (Nat.lt_irrefl _)
  have hne : ∀ m : Fin 16, m ≠ j → pos + m ≠ pos + j := fun m hm k => hm (add_left_cancel k)
  rw [State.passIneligible_eq, hentry]
  refine ⟨by rw [h.moves]; rfl, ?_, ?_, fun m hm => ?_, fun m hm => ?_, fun e => ?_, fun m hm hdraft hlast => ?_,
    fun hnone => ?_, fun i hi => ?_⟩
  · show Prox.put .. = _
    rw [h.sweep]
    rfl
  · obtain ⟨hmask, hstate, hresponse⟩ := Port.occurIf_rest t.port ((s.prox.at (pos + j)).state = .draft) .draftChange
      (pos + j)
    exact ⟨hmask.trans h.port.1, hstate.trans h.port.2.1, hresponse.trans h.port.2.2⟩
  · show (t.prox.put _ _).at _ = _
    by_cases hj : m = j
    · rw [hj, Prox.put_at_self]
    · rw [Prox.put_at_ne _ _ (hne m hj)]
      exact h.passed m (((hlt m).1 hm).resolve_right hj)
  · show (t.prox.put _ _).at _ = _
    rw [hlt, not_or] at hm
    rw [Prox.put_at_ne _ _ (hne m hm.2)]
    exact h.ahead m hm.1
  · refine (Port.occurIf_latched ..).trans ?_
    rw [h.latched]
    simp only [hlt, or_and_right, exists_or, exists_eq_left, and_or_left, or_assoc]
  · by_cases hj : m = j
    · rw [hj] at hdraft ⊢
      exact Port.occurIf_told _ _ _ _ hdraft rfl
    · have hbefore := ((hlt m).1 hm).resolve_right hj
      exact (Port.occurIf_untold _ _ _ _ fun k => absurd k (hlast j (Nat.lt_succ_self _) hbefore)).trans
        (h.last m hbefore hdraft fun m' hm' => hlast m' (Nat.lt_succ_of_lt hm'))
  · exact (Port.occurIf_untold _ _ _ _ fun k => absurd k (hnone j (Nat.lt_succ_self _))).trans
      (h.untold fun m hm => hnone m (Nat.lt_succ_of_lt hm))
  · exact (Port.occurIf_untold _ .draftChange _ _ fun _ k => hi (Option.some.inj k).symm).trans (h.details i hi)

theorem State.passing_passedOver (s : State) (pos : Station) : ∀ k, k ≤ 16 → s.PassedOver pos k (s.passing pos k)
  | 0, _ => ⟨rfl, rfl, ⟨rfl, rfl, rfl⟩, fun _ h => absurd h (Nat.not_lt_zero _), fun _ _ => rfl, fun e => by simp [State.passing],
      fun _ h => absurd h (Nat.not_lt_zero _), fun _ => rfl, fun _ _ => rfl⟩
  | k + 1, h => by
    have hk : k % 16 = k := Nat.mod_eq_of_lt h
    have hpassed := s.passing_passedOver pos k (Nat.le_of_succ_le h)
    have hnext := State.PassedOver.next (s := s) (pos := pos) (t := s.passing pos k) (Fin.ofNat 16 k)
      (by rw [Fin.val_ofNat, hk]; exact hpassed)
    rwa [Fin.val_ofNat, hk] at hnext

/-- Passing a station moves no eligibility (R137). -/
theorem State.PassedOver.eligible {t : State} {pos : Station} {k : Nat} (h : s.PassedOver pos k t) :
    t.eligible st = s.eligible st := by
  rw [h.moves]
  rfl

/-- Passing a station moves no measurement (R140). -/
theorem State.PassedOver.measure {t : State} {pos : Station} {k : Nat} (h : s.PassedOver pos k t) :
    t.measure st = s.measure st := by
  rw [h.moves]
  rfl

/-- A search passes the ineligible stations before it (R136). -/
theorem State.search_passing {pos : Station} (n : Nat) : ∀ k, k ≤ 16 →
    (∀ m : Fin 16, m.val < k → s.eligible (pos + m) = false) →
    State.search (n + k) pos s = State.search n (pos + Fin.ofNat 16 k) (s.passing pos k) := by
  intro k
  induction k generalizing n with
  | zero => intro _ _; simp [State.passing]
  | succ k ih =>
    intro hk h
    have hmod : k % 16 = k := Nat.mod_eq_of_lt hk
    have hnot : (s.passing pos k).eligible (pos + Fin.ofNat 16 k) = false := by
      rw [(s.passing_passedOver pos k (Nat.le_of_succ_le hk)).eligible]
      exact h _ (by rw [Fin.val_ofNat, hmod]; exact Nat.lt_succ_self k)
    have hnext : nextStation (pos + Fin.ofNat 16 k) = pos + Fin.ofNat 16 (k + 1) := by
      unfold nextStation
      rw [add_assoc]
      congr 1
      exact Fin.ext (by simp [Fin.val_add])
    calc State.search (n + (k + 1)) pos s
        = State.search (n + 1 + k) pos s := by rw [Nat.add_assoc, Nat.add_comm 1 k]
      _ = State.search (n + 1) (pos + Fin.ofNat 16 k) (s.passing pos k) :=
        ih (n + 1) (Nat.le_of_succ_le hk) fun m hm => h m (Nat.lt_succ_of_lt hm)
      _ = _ := by rw [State.search, hnot, if_neg Bool.false_ne_true, hnext]; rfl

/-! ## The sweep step -/

theorem eligible_iff : s.eligible st = true ↔ st ≠ s.own ∧ (∃ r, s.standings.at st = some r ∧ r.status = .running) ∧
    ∃ c, (s.table.at st).car = some (s.session.tag, c) := by
  unfold State.eligible
  rw [Bool.and_eq_true, Bool.and_eq_true, bne_iff_ne, and_assoc]
  refine and_congr Iff.rfl (and_congr ?_ ?_)
  · cases s.standings.at st <;> simp
  · obtain - | ⟨tag, c⟩ := (s.table.at st).car <;> simp

/-- A station ahead of those passed is evaluated as it would have been before (R140, R145 to R147). -/
theorem State.PassedOver.evaluated {t : State} {pos : Station} {k : Nat} {j : Fin 16} (h : s.PassedOver pos k t)
    (hj : ¬ j.val < k) : t.evaluated (pos + j) = s.evaluated (pos + j) := by
  have hjudge : ∀ m x, t.judgeProx m x = s.judgeProx m x := fun m x => by
    rw [h.moves]
    rfl
  unfold State.evaluated
  rw [h.measure, h.ahead j hj]
  simp only [hjudge]

/-- A search that finds the first eligible station evaluates it, and the sweep position becomes the one after it (R136). -/
theorem State.search_finds {pos : Station} {n : Fin 16} (heligible : s.eligible (pos + n) = true)
    (hbefore : ∀ m : Fin 16, m < n → s.eligible (pos + m) = false) :
    ∃ t, s.PassedOver pos n.val t ∧ State.search 16 pos s = (t.evaluatePeer (pos + n)).setProx
      { (t.evaluatePeer (pos + n)).prox with position := nextStation (pos + n) } := by
  have hpassed := s.passing_passedOver pos n.val n.isLt.le
  have hn : Fin.ofNat 16 n.val = n := Fin.ext (Nat.mod_eq_of_lt n.isLt)
  have hcount : 16 = 15 - n.val + 1 + n.val := by omega
  have hsearch := s.search_passing (15 - n.val + 1) n.val n.isLt.le hbefore
  rw [← hcount, hn] at hsearch
  refine ⟨_, hpassed, hsearch.trans ?_⟩
  rw [State.search, hpassed.eligible, if_pos heligible]

/-- The port after an evaluation that may enter CONTACT and may enter or leave DRAFT (R148). -/
def Port.judged (p : Port) (touches drafts : Prop) [Decidable touches] [Decidable drafts] (z : Station) : Port :=
  (p.occurIf touches .contact z).occurIf drafts .draftChange z

/-- What the passing of stations and then an evaluation leave of the port (R148). -/
theorem State.PassedOver.judged {t : State} {pos : Station} {k : Nat} (h : s.PassedOver pos k t) (touches drafts : Prop)
    [Decidable touches] [Decidable drafts] (z : Station) :
    let p := t.port.judged touches drafts z
    (∀ e, p.latched e = true ↔ s.port.latched e = true ∨ (e = .contact ∧ touches) ∨ (e = .draftChange ∧
      (drafts ∨ ∃ m : Fin 16, m.val < k ∧ (s.prox.at (pos + m)).state = .draft))) ∧
    (touches → p.details[(5 : Fin 9)] = z) ∧ (drafts → p.details[(6 : Fin 9)] = z) ∧
    (∀ i : Fin 9, (i = 5 → ¬ touches) → (i = 6 → ¬ drafts) → p.details[i] = t.port.details[i]) ∧
    p.mask = s.port.mask ∧ p.state = s.port.state ∧ p.response = s.port.response := by
  intro p
  obtain ⟨hmask, hstate, hresponse⟩ := Port.occurIf_rest t.port touches .contact z
  obtain ⟨hmask', hstate', hresponse'⟩ := Port.occurIf_rest (t.port.occurIf touches .contact z) drafts .draftChange z
  refine ⟨fun e => ?_, fun hc => ?_, fun hd => Port.occurIf_told _ _ _ _ hd rfl, fun i h5 h6 => ?_,
    hmask'.trans (hmask.trans h.port.1), hstate'.trans (hstate.trans h.port.2.1),
    hresponse'.trans (hresponse.trans h.port.2.2)⟩
  · refine (Port.occurIf_latched ..).trans ?_
    rw [Port.occurIf_latched, h.latched, and_or_left, or_assoc, or_assoc]
    exact or_congr Iff.rfl ((or_comm).trans or_assoc)
  · exact (Port.occurIf_untold _ .draftChange _ _ fun _ => by decide).trans (Port.occurIf_told _ _ _ _ hc rfl)
  · exact (Port.occurIf_untold _ .draftChange _ _ fun hd k => h6 (Option.some.inj k).symm hd).trans
      (Port.occurIf_untold _ .contact _ _ fun hc k => h5 (Option.some.inj k).symm hc)

/-- A sweep step with an eligible station: those before it are passed, and it is evaluated (R136, R145 to R148). -/
theorem State.sweep_finds {n : Fin 16} (heligible : s.eligible (s.prox.position + n) = true)
    (hbefore : ∀ m : Fin 16, m < n → s.eligible (s.prox.position + m) = false) :
    ∃ u, (s.setProx { s.prox with timer := some s.store.sweepGap }).PassedOver s.prox.position n.val u ∧
      s.sweep.prox = { u.prox.put (s.prox.position + n) (s.evaluated (s.prox.position + n)) with
        position := s.prox.position + n + 1 } ∧
      s.sweep.port = u.port.judged ((s.prox.at (s.prox.position + n)).state ≠ .contact ∧
          (s.evaluated (s.prox.position + n)).state = .contact)
        (¬ ((s.prox.at (s.prox.position + n)).state = .draft ↔ (s.evaluated (s.prox.position + n)).state = .draft))
        (s.prox.position + n) := by
  obtain ⟨u, hu, hsweep⟩ := State.search_finds (s := s.setProx { s.prox with timer := some s.store.sweepGap })
    (pos := s.prox.position) heligible hbefore
  rw [State.evaluatePeer_eq, hu.evaluated (Nat.lt_irrefl _), hu.ahead n (Nat.lt_irrefl _)] at hsweep
  exact ⟨u, hu, congrArg State.prox hsweep, congrArg State.port hsweep⟩

/-- A sweep step with nobody eligible passes all sixteen stations (R136). -/
theorem State.sweep_passes (hnone : ∀ st, s.eligible st = false) :
    (s.setProx { s.prox with timer := some s.store.sweepGap }).PassedOver s.prox.position 16 s.sweep := by
  have hsearch := State.search_passing (s := s.setProx { s.prox with timer := some s.store.sweepGap })
    (pos := s.prox.position) 0 16 (Nat.le_refl _) fun m _ => hnone _
  rw [State.search] at hsearch
  rw [State.sweep, show State.search 16 _ _ = _ from hsearch]
  exact State.passing_passedOver _ _ 16 (Nat.le_refl _)

/-- Settles O36: the first eligible station by the search, each event by the occurrences of the stations passed and of the
evaluation. -/
theorem sweepStepEvaluatesOnePeer : Obligations.SweepStepEvaluatesOnePeer := by
  have hexec : ∀ s : State, s.inReset = false → s.sweepRuns = true → s.prox.timer = some 0 →
      exec .sweepStep s = .next s.sweep := fun s hreset hruns htimer =>
    exec_caused (i := .sweepStep) rfl hreset (by simp [State.sweepDue, hruns, htimer])
  refine ⟨fun s st => ?_, fun s n hreset hruns htimer heligible hbefore => ?_, fun s hreset hruns htimer hnone => ?_⟩
  · intro own peer
    exact ⟨eligible_iff, rfl⟩
  · obtain ⟨u, hu, hprox, hport⟩ := State.sweep_finds heligible hbefore
    have hmoves := s.sweep_moves
    refine ⟨_, hexec s hreset hruns htimer, ?_⟩
    generalize s.sweep = t at hprox hport hmoves
    intro peer after
    have hat : ∀ m : Fin 16, m ≠ n → t.prox.at (s.prox.position + m) = u.prox.at (s.prox.position + m) := fun m hm => by
      rw [hprox]
      exact Prox.put_at_ne _ _ fun k => hm (add_left_cancel k)
    refine ⟨by rw [hprox]; exact Prox.put_at_self .., fun m hm => (hat m hm.ne).trans (hu.passed m hm),
      fun m hm => (hat m hm.ne').trans (hu.ahead m (Nat.lt_asymm hm)), by rw [hprox],
      by rw [hprox]; exact (congrArg Prox.timer hu.sweep).trans rfl,
      by rw [hprox]; exact (congrArg Prox.enabled hu.sweep).trans rfl, ?_⟩
    intro touches drafts passed
    have hjudged := hu.judged touches drafts peer
    rw [show u.port.judged touches drafts peer = t.port from hport.symm] at hjudged
    obtain ⟨hlatched, hcontact, hdraft, hdetails, hmask, hstate, hresponse⟩ := hjudged
    refine ⟨(hlatched .contact).trans (by simp), (hlatched .draftChange).trans (by simp; rfl), fun e hc hd => ?_,
      hcontact, fun hc => ?_, hdraft, fun m hd hm hlast => ?_, fun hd hnone => ?_, fun i h5 h6 => ?_, hmask, hstate,
      hresponse, ?_⟩
    · rw [Bool.eq_iff_iff, hlatched]
      simp [hc, hd]
    · exact (hdetails 5 (fun _ => hc) fun k => absurd k (by decide)).trans (hu.details 5 (by decide))
    · exact (hdetails 6 (fun k => absurd k (by decide)) fun _ => hd).trans (hu.last m hm.1 hm.2
        fun m' hm' hlt k => hlast m' hlt ⟨hm', k⟩)
    · exact (hdetails 6 (fun k => absurd k (by decide)) fun _ => hd).trans (hu.untold fun m hm k => hnone m ⟨hm, k⟩)
    · exact (hdetails i (absurd · h5) (absurd · h6)).trans (hu.details i h6)
    · rw [hmoves]
      exact ⟨rfl, rfl, rfl, rfl, rfl, rfl, rfl, rfl, rfl, rfl⟩
  · have hpassed := State.sweep_passes hnone
    have hall : ∀ st, ∃ m : Fin 16, st = s.prox.position + m := fun st => ⟨st - s.prox.position, by abel⟩
    refine ⟨_, hexec s hreset hruns htimer, by rw [hpassed.sweep]; rfl, fun st => ?_, (hpassed.latched _).trans ?_, fun e he => ?_,
      fun m hdraft hlast => hpassed.last m m.isLt hdraft fun m' _ => hlast m', fun i hi => ?_,
      by rw [hpassed.sweep]; rfl, by rw [hpassed.sweep]; rfl, hpassed.port.1, hpassed.port.2.1, hpassed.port.2.2, hpassed.moves⟩
    · obtain ⟨m, rfl⟩ := hall st
      exact hpassed.passed m m.isLt
    · refine or_congr Iff.rfl ⟨?_, ?_⟩
      · rintro ⟨-, m, -, hdraft⟩
        exact ⟨_, hdraft⟩
      · rintro ⟨st, hdraft⟩
        obtain ⟨m, rfl⟩ := hall st
        exact ⟨rfl, m, m.isLt, hdraft⟩
    · rw [Bool.eq_iff_iff, hpassed.latched]
      simp [he]
    · by_cases h6 : i = 6
      · subst h6
        exact hpassed.untold fun m _ => hi.resolve_left (not_not_intro rfl) _
      · exact hpassed.details i h6

end Sys2Proof.Machine
end

section

/-! The Motion Unit's values and their bounds: rounding to the nearest, extrapolation, blending and the residual of a car
apply (R116 to R123). -/

namespace Sys2Proof.Machine

variable {s : State} {st : Station} {k : Track} {c : CarRecord} {t : Time}

/-! ## Rounding to the nearest -/

theorem divNearest_neg_of_neg {n d : Int} (h : n < 0) : divNearest n d = -divNearest (-n) d := by
  rw [divNearest, if_neg (by omega), divNearest, if_pos (by omega)]

/-- A dividend that is not negative is rounded to the nearest, a half up (00_scope, "Rounding"). -/
theorem divNearest_of_nonneg {n d : Int} (hn : 0 ≤ n) (hd : 0 < d) :
    -d ≤ 2 * (n - d * divNearest n d) ∧ 2 * (n - d * divNearest n d) < d := by
  rw [divNearest, if_pos hn]
  have hlow := Int.mul_ediv_self_le (x := 2 * n + d) (k := 2 * d) (by omega)
  have hhigh := Int.lt_mul_ediv_self_add (x := 2 * n + d) (k := 2 * d) (by omega)
  rw [Int.mul_assoc] at hlow hhigh
  omega

/-- The rounded quotient is off by half the divisor at most, and at a half it lies farther from zero (00_scope,
"Rounding"). -/
theorem divNearest_error (n : Int) {d : Int} (hd : 0 < d) :
    (2 * (n - d * divNearest n d)).natAbs ≤ d.natAbs ∧
      ((2 * (n - d * divNearest n d)).natAbs = d.natAbs → n.natAbs < (d * divNearest n d).natAbs) := by
  by_cases hn : 0 ≤ n
  · obtain ⟨hlow, hhigh⟩ := divNearest_of_nonneg hn hd
    generalize d * divNearest n d = x at *
    omega
  · obtain ⟨hlow, hhigh⟩ := divNearest_of_nonneg (n := -n) (by omega) hd
    rw [divNearest_neg_of_neg (by omega), Int.mul_neg]
    generalize d * divNearest (-n) d = x at *
    omega

/-- A quotient within a whole bound is rounded within it. -/
theorem divNearest_bounded {n d : Int} {b : Nat} (hd : 0 < d) (h : (n.natAbs : Int) ≤ d * b) :
    (divNearest n d).natAbs ≤ b := by
  obtain ⟨herror, -⟩ := divNearest_error n hd
  have hupper : divNearest n d < b + 1 := by
    refine lt_of_mul_lt_mul_left (a := d) ?_ hd.le
    rw [mul_add]
    omega
  have hlower : -(b + 1 : Int) < divNearest n d := by
    refine lt_of_mul_lt_mul_left (a := d) ?_ hd.le
    rw [mul_neg, mul_add]
    omega
  omega

theorem natAbs_toInt_le (v : BitVec 16) : v.toInt.natAbs ≤ 32768 := by
  have hlow := BitVec.le_toInt v
  have hhigh := BitVec.toInt_lt (x := v)
  omega

/-- One evaluation carries a car 49,152 tu at most (R119). -/
theorem travelled_bounded (v a : BitVec 16) {span : Nat} (h : span ≤ 1000000) :
    (travelled v.toInt a.toInt span).natAbs ≤ 49152 := by
  refine divNearest_bounded (by decide) ?_
  have hspeed : (2 * v.toInt * span * 1000000).natAbs ≤ 2 * 32768 * 1000000 * 1000000 := by
    simp only [Int.natAbs_mul, Int.natAbs_natCast]
    exact Nat.mul_le_mul (Nat.mul_le_mul (Nat.mul_le_mul_left _ (natAbs_toInt_le v)) h) (Nat.le_refl _)
  have haccel : (a.toInt * (span * span : Nat)).natAbs ≤ 32768 * (1000000 * 1000000) := by
    simp only [Int.natAbs_mul, Int.natAbs_natCast]
    exact Nat.mul_le_mul (natAbs_toInt_le a) (Nat.mul_le_mul h h)
  have hsum := Int.natAbs_add_le (2 * v.toInt * span * 1000000) (a.toInt * (span * span : Nat))
  omega

/-! ## The presented distance -/

/-- A distance of a car that has not finished is held below the finish distance, one of a finished car at it (R120). -/
theorem Track.bound_le (hfinish : 0 < k.finish) (d : Int) :
    k.bound false d ≤ k.finish - 1 ∧ k.bound true d = k.finish := by
  refine ⟨?_, rfl⟩
  show (clampInt 0 _ d).toNat ≤ _
  unfold clampInt
  omega

theorem Track.halted_eq : k.halted c t =
    decide (((0 < c.speed.toInt ∧ c.accel.toInt < 0) ∨ (c.speed.toInt < 0 ∧ 0 < c.accel.toInt)) ∧
      c.speed.toInt.natAbs * 1000000 / c.accel.toInt.natAbs < min (tdiff t c.recordTime).toNat k.horizon) := by
  simp only [Track.halted, CarRecord.braking, CarRecord.haltTime, rawSpan, Bool.decide_and, Bool.decide_or]
  rfl

theorem Track.stale_iff : k.stale c t = true ↔ (k.horizon : Int) < tdiff t c.recordTime := by
  rw [Track.stale, decide_eq_true_iff, rawSpan]
  omega

theorem Track.speed_bounded : (k.speed c t).natAbs ≤ 32767 := by
  unfold Track.speed clampInt
  split <;> omega

/-! ## The residual -/

/-- A peer's record of the race is the stored one of the own tag, the tag not being 0 (R126). -/
theorem raceRecord_iff : s.raceRecord st = some c ↔ s.session.tag ≠ 0 ∧ (s.table.at st).car = some (s.session.tag, c) := by
  unfold State.raceRecord
  obtain - | ⟨tag, d⟩ := (s.table.at st).car
  · simp
  · simp [and_assoc]

theorem heldDistance_iff {d : Nat} :
    s.heldDistance st = some d ↔ ∃ r, s.standings.at st = some r ∧ r.heldAt = some d := by
  unfold State.heldDistance
  cases s.standings.at st <;> simp

/-- A residual is formed within the snap threshold, or is 0 (R122). -/
theorem newResidual_bounded (tag : Byte) (c : CarRecord) (ta : Time) :
    (s.newResidual st tag c ta).natAbs ≤ s.store.snap := by
  unfold State.newResidual
  dsimp only
  split
  · exact Nat.zero_le _
  · split
    · exact Nat.zero_le _
    · split
      · exact Nat.zero_le _
      · omega

/-- Without a record of the race there is no residual (R122). -/
theorem newResidual_noRecord {tag : Byte} {ta : Time} (h : s.raceRecord st = none) : s.newResidual st tag c ta = 0 := by
  unfold State.newResidual
  rw [h]

/-- With a record of the race the residual is what it presents less what the new one does, unless a case of R122 holds. -/
theorem newResidual_record {tag : Byte} {ta : Time} {old : CarRecord} (h : s.raceRecord st = some old) :
    s.newResidual st tag c ta =
      if tag ≠ s.session.tag ∨ c.respawn = true ∨ s.store.blend = 0 ∨ (s.heldDistance st).isSome = true then 0
      else if (s.store.snap : Int) < ((s.track.blended s.store.blend old (s.table.at st).residual
          (s.table.at st).blendStart ta : Int) - s.track.distance c ta).natAbs then 0
      else (s.track.blended s.store.blend old (s.table.at st).residual (s.table.at st).blendStart ta : Int) -
        s.track.distance c ta := by
  unfold State.newResidual
  rw [h]

/-- Settles O33: each value by its definition, the bounds by the rounding and the clamps. -/
theorem presentationsAreBounded : Obligations.PresentationsAreBounded := by
  refine ⟨fun v a span hspan => ?_, fun k c t => ?_, fun k c blend e ta t => ?_, fun s st tag c ta => ?_,
    fun k c blend e ta t hfinish => ?_, fun s st tag c ta => newResidual_bounded tag c ta⟩
  · intro whole error
    obtain ⟨hclose, haway⟩ := divNearest_error whole (d := 2000000000000) (by decide)
    exact ⟨travelled_bounded v a hspan, hclose, haway⟩
  · intro v a placed since reach halt halts span
    have hhalted : k.halted c t = halts := Track.halted_eq
    have hspan : k.span c t = span := by rw [Track.span, hhalted]; rfl
    exact ⟨rfl, Track.stale_iff, hhalted, hspan, by rw [Track.speed, hhalted, hspan]; rfl,
      by rw [Track.distance, hspan]; rfl⟩
  · intro left term
    have hleft : blendLeft blend ta t = left := by
      unfold blendLeft
      omega
    have hterm : blendTerm blend e ta t = term := by rw [blendTerm, hleft]
    rw [Track.blended, hterm]
    rfl
  · intro y k zero
    have hheld : (s.heldDistance st).isSome = true ↔ ∃ r d, s.standings.at st = some r ∧ r.heldAt = some d := by
      simp only [Option.isSome_iff_exists, heldDistance_iff]
      exact exists_comm
    constructor
    · intro hzero
      cases hrecord : s.raceRecord st with
      | none => exact newResidual_noRecord hrecord
      | some old =>
        obtain ⟨htag, hcar⟩ := raceRecord_iff.1 hrecord
        rw [newResidual_record hrecord, if_pos]
        rw [hheld]
        obtain h | h | h | h := hzero
        · exact absurd h htag
        · exact .inl h
        · exact absurd hcar (h old)
        · exact .inr h
    · intro old hzero hcar e
      have htag : s.session.tag ≠ 0 := fun h => hzero (.inl h)
      rw [newResidual_record (raceRecord_iff.2 ⟨htag, hcar⟩), if_neg]
      · refine if_congr ?_ rfl rfl
        exact Int.ofNat_lt
      · rw [hheld]
        rintro (h | h)
        · exact hzero (.inr (.inl h))
        · exact hzero (.inr (.inr (.inr h)))
  · refine ⟨fun hnone => ?_, fun hsome => ?_, Track.speed_bounded, fun hhalted => if_pos hhalted⟩
    · have hrunning : c.finished = false := by rw [CarRecord.finished, hnone]; rfl
      rw [Track.blended, Track.distance, hrunning]
      exact ⟨(Track.bound_le hfinish _).1, (Track.bound_le hfinish _).1⟩
    · have hfinished : c.finished = true := Option.isSome_iff_ne_none.2 hsome
      rw [Track.blended, Track.distance, hfinished]
      exact ⟨rfl, rfl⟩

end Sys2Proof.Machine
end

section

/-! The standings list: each starter once, in order and in places without gaps (R161), and the values of its entries and of the
cars it presents (R125 to R128, R167, R168). -/

namespace Sys2Proof.Machine

variable {s : State} {copy : Option CarRecord} {t : Time}

/-! ## Each starter once -/

theorem insertBy_perm (before : Ranked → Ranked → Bool) (x : Ranked) (l : List Ranked) :
    (insertBy before x l).Perm (x :: l) := by
  induction l with
  | nil => exact .refl _
  | cons y ys ih =>
    unfold insertBy
    split
    · exact .refl _
    · exact (ih.cons y).trans (.swap ..)

theorem orderBy_perm (before : Ranked → Ranked → Bool) (l : List Ranked) : (orderBy before l).Perm l := by
  induction l with
  | nil => exact .refl _
  | cons x xs ih => exact (insertBy_perm before x _).trans (ih.cons x)

theorem count_filter_eq (p : Ranked → Bool) (x : Ranked) (l : List Ranked) :
    (l.filter p).count x = if p x then l.count x else 0 := by
  split
  · next h => exact List.count_filter h
  · next h => exact List.count_eq_zero.2 fun k => h (List.mem_filter.1 k).2

/-- Each status belongs to one group alone (R161). -/
theorem groups_perm (l : List Ranked) :
    (l.filter (fun x => x.status == .finished) ++ l.filter (fun x => x.status.stillRunning) ++
      l.filter (fun x => x.status == .dnf) ++ l.filter (fun x => x.status == .withdrawn)).Perm l := by
  refine List.perm_iff_count.2 fun x => ?_
  simp only [List.count_append, count_filter_eq]
  cases x.status <;> simp [RaceStatus.stillRunning]

theorem arrange_perm (l : List Ranked) : (arrange l).Perm l :=
  ((((orderBy_perm _ _).append (orderBy_perm _ _)).append (.refl _)).append (.refl _)).trans (groups_perm l)

/-- The ranked starters are the stations with a starter record, in rising order (R161). -/
theorem ranked_stations : (s.ranked copy t).map Ranked.station = stations.filter fun st => (s.standings.at st).isSome := by
  unfold State.ranked
  generalize stations = l
  induction l with
  | nil => rfl
  | cons st sts ih => cases hst : s.standings.at st <;> simp [hst, ih]

theorem ranked_sorted : (s.ranked copy t).Pairwise fun a b => a.station < b.station := by
  have h : ((s.ranked copy t).map Ranked.station).Pairwise (· < ·) := by
    rw [ranked_stations]
    exact .filter _ (by decide)
  exact List.pairwise_map.1 h

theorem standingsFrom_places {first : Ranked} {own : Nat} (l : List Ranked) : ∀ place,
    (s.standingsFrom first own t place l).map Standing.place =
      List.range' place (s.standingsFrom first own t place l).length := by
  induction l with
  | nil => exact fun _ => rfl
  | cons x xs ih =>
    intro place
    simp only [State.standingsFrom, List.map_cons, List.length_cons, List.range'_succ, ih]
    rfl

theorem standingsFrom_stations {first : Ranked} {own : Nat} (l : List Ranked) : ∀ place,
    (s.standingsFrom first own t place l).map Standing.station = l.map Ranked.station := by
  induction l with
  | nil => exact fun _ => rfl
  | cons x xs ih =>
    intro place
    simp only [State.standingsFrom, List.map_cons, ih]
    rfl

/-- A list is empty, or its entries are formed against its first starter and the own distance (R161, R167). -/
theorem formList_cases (s : State) (copy : Option CarRecord) (t : Time) :
    (arrange (s.ranked copy t) = [] ∧ s.formList copy t = []) ∨
    ∃ first rest, arrange (s.ranked copy t) = first :: rest ∧
      s.formList copy t = s.standingsFrom first (ownDistanceIn s.own (first :: rest)) t 1 (first :: rest) := by
  unfold State.formList
  cases arrange (s.ranked copy t) with
  | nil => exact .inl ⟨rfl, rfl⟩
  | cons first rest => exact .inr ⟨first, rest, rfl, rfl⟩

theorem formList_places : (s.formList copy t).map Standing.place = List.range' 1 (s.formList copy t).length := by
  obtain ⟨-, hlist⟩ | ⟨first, rest, -, hlist⟩ := formList_cases s copy t
  · rw [hlist]; rfl
  · rw [hlist]; exact standingsFrom_places _ 1

theorem formList_stations :
    (s.formList copy t).map Standing.station = (arrange (s.ranked copy t)).map Ranked.station := by
  obtain ⟨harranged, hlist⟩ | ⟨first, rest, harranged, hlist⟩ := formList_cases s copy t
  · rw [hlist, harranged]; rfl
  · rw [hlist, harranged]; exact standingsFrom_stations _ 1

/-! ## The order -/

/-- Ordering by a test that compares keys orders the keys. -/
theorem orderBy_sorted {κ : Type} [LinearOrder κ] {before : Ranked → Ranked → Bool} {key : Ranked → κ} {l : List Ranked}
    (h : ∀ a ∈ l, ∀ b ∈ l, before a b = true ↔ key a ≤ key b) :
    (orderBy before l).Pairwise fun a b => key a ≤ key b := by
  induction l with
  | nil => exact .nil
  | cons x xs ih =>
    have hsorted := ih fun a ha b hb => h a (.tail _ ha) b (.tail _ hb)
    have hx : ∀ b ∈ orderBy before xs, before x b = true ↔ key x ≤ key b := fun b hb =>
      h x (.head _) b (.tail _ ((mem_orderBy ..).1 hb))
    clear h ih
    unfold orderBy
    generalize orderBy before xs = l at hsorted hx
    induction l with
    | nil => exact List.pairwise_singleton ..
    | cons y ys ih =>
      obtain ⟨hy, hys⟩ := List.pairwise_cons.1 hsorted
      unfold insertBy
      split
      · next hbefore =>
        have hxy := (hx y (.head _)).1 hbefore
        exact .cons (fun b hb => (List.mem_cons.1 hb).elim (fun e => e ▸ hxy) fun hb => hxy.trans (hy b hb)) hsorted
      · next hbefore =>
        have hyx : key y ≤ key x := le_of_not_ge fun hxy => hbefore ((hx y (.head _)).2 hxy)
        refine .cons (fun b hb => ?_) (ih hys fun b hb => hx b (.tail _ hb))
        obtain rfl | hb := (mem_insertBy ..).1 hb
        exacts [hyx, hy b hb]

/-- Ordering stations apart by a key and then by station orders them strictly (R161). -/
theorem orderBy_strict {before : Ranked → Ranked → Bool} {key : Ranked → Int} {l : List Ranked}
    (h : ∀ a ∈ l, ∀ b ∈ l, before a b = true ↔ key a < key b ∨ (key a = key b ∧ a.station ≤ b.station))
    (hl : l.Pairwise fun a b => a.station ≠ b.station) :
    (orderBy before l).Pairwise fun a b => key a < key b ∨ (key a = key b ∧ a.station < b.station) := by
  have hsorted := orderBy_sorted (before := before) (key := fun a => toLex (key a, a.station)) fun a ha b hb =>
    (h a ha b hb).trans (Prod.Lex.toLex_le_toLex (x := (key a, a.station)) (y := (key b, b.station))).symm
  have hapart := (orderBy_perm before l).symm.pairwise hl fun {_ _} => Ne.symm
  refine (hsorted.and hapart).imp fun {a b} hab => ?_
  exact (Prod.Lex.toLex_le_toLex.1 hab.1).imp_right fun k => ⟨k.1, lt_of_le_of_ne k.2 hab.2⟩

/-- The difference of two times not before a start is that of their distances from it. -/
theorem tdiff_from_start {a b start : Time} (ha : 0 ≤ tdiff a start) (hb : 0 ≤ tdiff b start) :
    tdiff b a = tdiff b start - tdiff a start := by
  have hsub : b - a = (b - start) - (a - start) := by bv_omega
  have hsmall := BitVec.toInt_lt (x := a - start)
  have hsmall' := BitVec.toInt_lt (x := b - start)
  unfold tdiff at *
  rw [hsub, BitVec.toInt_sub, Int.bmod_eq_of_le (by omega) (by omega)]

theorem tdiff_left_injective {a b start : Time} (h : tdiff a start = tdiff b start) : a = b := by
  have hsub : a - start = b - start := BitVec.eq_of_toInt_eq h
  bv_omega

/-- FINISHED starters that finished at or after the start are ordered by their time from it (R161). -/
theorem finishedBefore_iff {a b : Ranked} {start : Time} (ha : 0 ≤ tdiff (a.finish.getD 0) start)
    (hb : 0 ≤ tdiff (b.finish.getD 0) start) : finishedBefore a b = true ↔
      tdiff (a.finish.getD 0) start < tdiff (b.finish.getD 0) start ∨
        (tdiff (a.finish.getD 0) start = tdiff (b.finish.getD 0) start ∧ a.station ≤ b.station) := by
  have hequal : a.finish.getD 0 = b.finish.getD 0 ↔
      tdiff (a.finish.getD 0) start = tdiff (b.finish.getD 0) start :=
    ⟨fun h => by rw [h], tdiff_left_injective⟩
  simp only [finishedBefore, Bool.or_eq_true, Bool.and_eq_true, decide_eq_true_iff, tdiff_from_start ha hb, hequal,
    sub_pos]

theorem furtherThan_iff {a b : Ranked} : furtherThan a b = true ↔
    -(a.distance : Int) < -(b.distance : Int) ∨
      (-(a.distance : Int) = -(b.distance : Int) ∧ a.station ≤ b.station) := by
  simp [furtherThan]

/-- The group of R161 that a status puts a starter in. -/
def RaceStatus.group (x : RaceStatus) : Nat :=
  if x = .finished then 1 else if x = .dnf then 3 else if x = .withdrawn then 4 else 2

/-- One starter stands before another in the order of R161. -/
def Ranked.Precedes (a b : Ranked) : Prop :=
  a.status.group < b.status.group ∨ (a.status.group = b.status.group ∧
    ((a.status.group = 1 ∧ (0 < tdiff (b.finish.getD 0) (a.finish.getD 0) ∨
        (a.finish.getD 0 = b.finish.getD 0 ∧ a.station < b.station))) ∨
      (a.status.group = 2 ∧ (b.distance < a.distance ∨ (a.distance = b.distance ∧ a.station < b.station))) ∨
      (2 < a.status.group ∧ a.station < b.station)))

theorem mem_finished {a : Ranked} {l : List Ranked} (h : a ∈ l.filter fun x => x.status == .finished) :
    a ∈ l ∧ a.status = .finished := by
  simpa using h

/-- The members of the four parts of an arranged list stand in the four groups (R161). -/
theorem group_of_part (l : List Ranked) :
    (∀ a ∈ l.filter (fun x => x.status == .finished), a.status.group = 1) ∧
    (∀ a ∈ l.filter (fun x => x.status.stillRunning), a.status.group = 2) ∧
    (∀ a ∈ l.filter (fun x => x.status == .dnf), a.status.group = 3) ∧
    (∀ a ∈ l.filter (fun x => x.status == .withdrawn), a.status.group = 4) := by
  simp only [← forall_and, List.mem_filter]
  intro a
  cases a.status <;> simp [RaceStatus.stillRunning, RaceStatus.group]

/-- The arranged starters stand in the order of R161, where no finish time lies before the agreed start. -/
theorem arrange_ordered (hstart : ∀ st r, s.standings.at st = some r → r.status = .finished →
    0 ≤ tdiff (r.finish.getD 0) (s.session.agreed.getD 0)) :
    (arrange (s.ranked copy t)).Pairwise Ranked.Precedes := by
  have hsorted : (s.ranked copy t).Pairwise fun a b => a.station < b.station := ranked_sorted
  have hapart : ∀ p, ((s.ranked copy t).filter p).Pairwise fun a b => a.station ≠ b.station := fun p =>
    (hsorted.imp fun h => h.ne).filter p
  have hfinish : ∀ a ∈ (s.ranked copy t).filter (fun x => x.status == .finished),
      0 ≤ tdiff (a.finish.getD 0) (s.session.agreed.getD 0) := fun a ha => by
    obtain ⟨hmem, hstatus⟩ := mem_finished ha
    obtain ⟨r, hr, hform⟩ := State.mem_ranked hmem
    rw [hform] at hstatus ⊢
    exact hstart _ r hr hstatus
  generalize s.ranked copy t = l at *
  obtain ⟨hone, htwo, hthree, hfour⟩ := group_of_part l
  simp only [arrange, List.pairwise_append, List.mem_append, mem_orderBy]
  refine ⟨⟨⟨?_, ?_, fun a ha b hb => ?_⟩, ?_, fun a ha b hb => ?_⟩, ?_, fun a ha b hb => ?_⟩
  · refine (orderBy_strict (fun a ha b hb => finishedBefore_iff (hfinish a ha) (hfinish b hb)) (hapart _)).imp_of_mem
      fun {a b} ha hb hab => ?_
    rw [mem_orderBy] at ha hb
    refine .inr ⟨(hone a ha).trans (hone b hb).symm, .inl ⟨hone a ha, ?_⟩⟩
    rw [tdiff_from_start (hfinish a ha) (hfinish b hb), sub_pos]
    exact hab.imp_right fun k => ⟨tdiff_left_injective k.1, k.2⟩
  · refine (orderBy_strict (fun a _ b _ => furtherThan_iff) (hapart _)).imp_of_mem fun {a b} ha hb hab => ?_
    rw [mem_orderBy] at ha hb
    refine .inr ⟨(htwo a ha).trans (htwo b hb).symm, .inr (.inl ⟨htwo a ha, ?_⟩)⟩
    exact hab.imp (fun k => by omega) fun k => ⟨by omega, k.2⟩
  · exact .inl (by rw [hone a ha, htwo b hb]; decide)
  · refine (hsorted.filter _).imp_of_mem fun {a b} ha hb hab => ?_
    exact .inr ⟨(hthree a ha).trans (hthree b hb).symm, .inr (.inr ⟨by rw [hthree a ha]; decide, hab⟩)⟩
  · refine .inl ?_
    rw [hthree b hb]
    obtain k | k := ha
    · rw [hone a k]; decide
    · rw [htwo a k]; decide
  · refine (hsorted.filter _).imp_of_mem fun {a b} ha hb hab => ?_
    exact .inr ⟨(hfour a ha).trans (hfour b hb).symm, .inr (.inr ⟨by rw [hfour a ha]; decide, hab⟩)⟩
  · refine .inl ?_
    rw [hfour b hb]
    obtain (k | k) | k := ha
    · rw [hone a k]; decide
    · rw [htwo a k]; decide
    · rw [hthree a k]; decide

theorem standingsFrom_pairwise {R : Ranked → Ranked → Prop} {S : Standing → Standing → Prop} {first : Ranked} {own : Nat}
    (h : ∀ a b p q, R a b → S (s.standingOf first own p t a) (s.standingOf first own q t b)) {l : List Ranked}
    (hl : l.Pairwise R) : ∀ place, (s.standingsFrom first own t place l).Pairwise S := by
  induction hl with
  | nil => exact fun _ => .nil
  | cons hx _ ih =>
    refine fun place => .cons (fun y hy => ?_) (ih _)
    obtain ⟨b, hb, q, rfl⟩ := State.mem_standingsFrom hy
    exact h _ _ _ _ (hx b hb)

/-! ## The values of an entry -/

/-- What ties an entry to its starter (R167, R168). -/
theorem mem_formList {x : Standing} (h : x ∈ s.formList copy t) :
    ∃ first rest y q, arrange (s.ranked copy t) = first :: rest ∧ y ∈ s.ranked copy t ∧
      x = s.standingOf first (ownDistanceIn s.own (first :: rest)) q t y := by
  obtain ⟨-, hlist⟩ | ⟨first, rest, harranged, hlist⟩ := formList_cases s copy t
  · rw [hlist] at h
    cases h
  · rw [hlist] at h
    obtain ⟨y, hy, q, rfl⟩ := State.mem_standingsFrom h
    exact ⟨first, rest, y, q, harranged, mem_of_arrange (harranged ▸ hy), rfl⟩

/-- Two ranked starters of one station are one (R161). -/
theorem ranked_unique {a b : Ranked} (ha : a ∈ s.ranked copy t) (hb : b ∈ s.ranked copy t)
    (h : a.station = b.station) : a = b := by
  obtain ⟨r, hr, hform⟩ := State.mem_ranked ha
  obtain ⟨r', hr', hform'⟩ := State.mem_ranked hb
  rw [h, hr'] at hr
  obtain rfl := Option.some.inj hr
  rw [hform, hform', h]

/-- The own distance of a list is that of its own starter (R168). -/
theorem ownDistanceIn_eq {y : Ranked} (hy : y ∈ s.ranked copy t) (hown : y.station = s.own) :
    ownDistanceIn s.own (arrange (s.ranked copy t)) = y.distance := by
  have hmem : y ∈ arrange (s.ranked copy t) := (arrange_perm _).mem_iff.2 hy
  unfold ownDistanceIn
  cases hfind : (arrange (s.ranked copy t)).find? (fun x => x.station == s.own) with
  | none => exact absurd (by simp [hown]) (List.find?_eq_none.1 hfind y hmem)
  | some z =>
    have hz := mem_of_arrange (List.mem_of_find?_eq_some hfind)
    have hstation := eq_of_beq (List.find?_some (p := fun x : Ranked => x.station == s.own) hfind)
    exact congrArg Ranked.distance (ranked_unique hz hy (hstation.trans hown.symm))

/-! ## The cars presented -/

/-- The starting record shows a car at distance 0 and speed 0 (R126). -/
theorem grid_presented (s : State) (t : Time) : s.track.plain s.grid t true =
    { distance := 0, speed := 0, lateral := 0,
      stale := decide ((s.store.horizon : Int) < tdiff t (s.session.agreed.getD 0)),
      inPit := false, offTrack := false, finished := false, noRecord := true } := by
  have hrecord : s.track.recordDistance s.grid = 0 := by
    show min (min 0 s.track.laps * s.track.length + min 0 (s.track.length - 1)) (s.track.finish - 1) = 0
    simp
  have htravelled : ∀ span, travelled (s.grid.speed.toInt) (s.grid.accel.toInt) span = 0 := fun span => by
    show divNearest (2 * 0 * span * 1000000 + 0 * (span * span : Nat)) 2000000000000 = 0
    simp [divNearest]
  have hdistance : s.track.distance s.grid t = 0 := by
    unfold Track.distance
    rw [hrecord, htravelled]
    show (clampInt 0 _ 0).toNat = 0
    unfold clampInt
    omega
  have hspeed : s.track.speed s.grid t = 0 := by
    have hhalted : s.track.halted s.grid t = false := rfl
    unfold Track.speed
    rw [hhalted]
    show clampInt (-32767) 32767 (0 + Int.tdiv (0 * _) 1000000) = 0
    simp [clampInt]
  have hstale : s.track.stale s.grid t = decide ((s.store.horizon : Int) < tdiff t (s.session.agreed.getD 0)) := by
    rw [Bool.eq_iff_iff, Track.stale_iff, decide_eq_true_iff]
    rfl
  unfold Track.plain
  rw [hdistance, hspeed, hstale]
  rfl

/-- A peer without a held distance is presented from its record (R123, R126, R127). -/
theorem presentPeer_free {st : Station} (h : ∀ r, s.standings.at st = some r → r.heldAt = none) :
    s.presentPeer st t = s.presentRecord st t := by
  have hfree : s.heldDistance st = none := by
    rw [Option.eq_none_iff_forall_ne_some]
    intro d hd
    obtain ⟨r, hr, hheld⟩ := heldDistance_iff.1 hd
    rw [h r hr] at hheld
    cases hheld
  unfold State.presentPeer
  rw [hfree]

theorem presentPeer_held {st : Station} {d : Nat} (h : s.heldDistance st = some d) :
    s.presentPeer st t = heldAt d (s.raceRecord st) := by
  unfold State.presentPeer
  rw [h]

/-! ## The obligation -/

theorem RaceStatus.group_eq_one {x : RaceStatus} (h : x.group = 1) : x = .finished := by
  revert h
  cases x <;> decide

theorem standingOf_finish {first y : Ranked} {own q : Nat} (h : y.status = .finished) :
    (s.standingOf first own q t y).finish = some (y.finish.getD 0) := if_pos h

theorem head_formList {first : Standing} (h : (s.formList copy t).head? = some first) :
    ∃ y rest, arrange (s.ranked copy t) = y :: rest ∧
      first = s.standingOf y (ownDistanceIn s.own (y :: rest)) 1 t y := by
  obtain ⟨-, hlist⟩ | ⟨y, rest, harranged, hlist⟩ := formList_cases s copy t
  · rw [hlist] at h
    cases h
  · rw [hlist] at h
    cases h
    exact ⟨y, rest, harranged, rfl⟩

/-- The order of R161 among the entries formed from two starters is that of the starters. -/
theorem standingOf_precedes {first a b : Ranked} {own p q : Nat} (h : a.Precedes b) :
    let group := fun x : Standing =>
      if x.status = .finished then 1 else if x.status = .dnf then 3 else if x.status = .withdrawn then 4 else 2
    let x := s.standingOf first own p t a
    let y := s.standingOf first own q t b
    group x < group y ∨ (group x = group y ∧
      ((group x = 1 ∧ (0 < tdiff (y.finish.getD 0) (x.finish.getD 0) ∨
          (x.finish = y.finish ∧ x.station < y.station))) ∨
        (group x = 2 ∧ (y.distance < x.distance ∨ (x.distance = y.distance ∧ x.station < y.station))) ∨
        (2 < group x ∧ x.station < y.station))) := by
  intro group x y
  refine h.imp_right fun ⟨hsame, hcases⟩ => ⟨hsame, hcases.imp_left fun ⟨hone, htimes⟩ => ⟨hone, ?_⟩⟩
  have hx : x.finish = some (a.finish.getD 0) := standingOf_finish (RaceStatus.group_eq_one hone)
  have hy : y.finish = some (b.finish.getD 0) := standingOf_finish (RaceStatus.group_eq_one (hsame.symm.trans hone))
  rw [hx, hy]
  exact htimes.imp_right fun ⟨hequal, hstation⟩ => ⟨congrArg some hequal, hstation⟩

/-- GAPT and GAPD of the entries formed from a starter and from place 1 (R168). -/
theorem standingOf_gaps {first y : Ranked} {own p q : Nat} :
    let x := s.standingOf first own q t y
    let f := s.standingOf first own p t first
    x.gapT = (if x.status = .finished ∧ f.status = .finished then
      some ((tdiff (x.finish.getD 0) (f.finish.getD 0)).toNat / 1000) else none) ∧
    x.gapD = (if x.status = .running ∨ x.status = .lost ∨ x.status = .unfinished then
      some ((f.distance - x.distance) / 100) else none) := by
  intro x f
  constructor
  · show gapTOf first y = if y.status = .finished ∧ first.status = .finished then _ else _
    unfold gapTOf
    by_cases h : y.status = .finished ∧ first.status = .finished
    · rw [if_pos h, if_pos h, standingOf_finish h.1, standingOf_finish h.2]
      rfl
    · rw [if_neg h, if_neg h]
  · show gapDOf first y = if y.status = .running ∨ y.status = .lost ∨ y.status = .unfinished then _ else _
    unfold gapDOf
    cases y.status <;> rfl

/-- Settles O30: the order by the keys of each group, the values by the starter an entry is formed from. -/
theorem standingsListsAreOrdered : Obligations.StandingsListsAreOrdered := by
  refine ⟨fun s copy t => ⟨formList_places, ?_⟩, fun s copy t hstart => ?_, fun s copy t x hx => ?_,
    fun s st copy t => ?_⟩
  · rw [formList_stations, ← ranked_stations (copy := copy) (t := t)]
    exact (arrange_perm _).map _
  · intro group
    obtain ⟨-, hlist⟩ | ⟨first, rest, harranged, hlist⟩ := formList_cases s copy t
    · rw [hlist]
      exact .nil
    · rw [hlist]
      exact standingsFrom_pairwise (fun a b p q => standingOf_precedes) (harranged ▸ arrange_ordered hstart) 1
  · intro start
    obtain ⟨first, rest, y, q, harranged, hy, rfl⟩ := mem_formList hx
    obtain ⟨r, hr, hform⟩ := State.mem_ranked hy
    have hstatus : y.status = r.status := congrArg Ranked.status hform
    have hfinish : y.finish = r.finish := congrArg Ranked.finish hform
    refine ⟨r, hr, hstatus, congrArg Ranked.distance hform, ?_, ?_, ?_, fun head hhead => ?_, fun own hown hstation => ?_⟩
    · show (if y.status = .finished then _ else _) = _
      rw [hstatus]
      rfl
    · show s.elapsedOf y t = _
      unfold State.elapsedOf
      rw [hstatus, hfinish]
      cases r.status <;> rfl
    · show (if y.status = .finished then _ else _) = _
      rw [hstatus, hfinish]
    · obtain ⟨z, rest', harranged', rfl⟩ := head_formList hhead
      obtain ⟨rfl, rfl⟩ := List.cons.inj (harranged.symm.trans harranged')
      exact standingOf_gaps
    · obtain ⟨first', rest', z, q', -, hz, rfl⟩ := mem_formList hown
      show deltaOf _ y = _
      rw [← harranged, ownDistanceIn_eq hz hstation]
      rfl
  · intro y moving grid ofTheRace
    have hgrid : s.track.plain s.grid t true = grid := grid_presented s t
    have hrecord : ∀ c, ofTheRace c → s.raceRecord st = some c := fun c h => raceRecord_iff.2 h
    have hnone : (∀ c, ¬ ofTheRace c) → s.raceRecord st = none := fun h =>
      Option.eq_none_iff_forall_ne_some.2 fun c hc => h c (raceRecord_iff.1 hc)
    refine ⟨rfl, fun c => rfl, hgrid, presentPeer_free, fun r d hr hheld => ?_, fun c h => ?_, fun h => ?_⟩
    · have hdistance := heldDistance_iff.2 ⟨r, hr, hheld⟩
      refine ⟨fun c h => ?_, fun h => ?_⟩
      · rw [presentPeer_held hdistance, hrecord c h]
        rfl
      · rw [presentPeer_held hdistance, hnone h]
        rfl
    · unfold State.presentRecord
      rw [hrecord c h]
      rfl
    · unfold State.presentRecord
      rw [hnone h]
      exact hgrid

end Sys2Proof.Machine
end

section

/-! The Readout Formatter: the fields of an entry, the steps of a pattern, and the bounds of the line it forms (R174 to
R186). -/

namespace Sys2Proof.Machine

variable {s : State} {entry : Standing} {x : Fmt}

/-! ## What bounds a line -/

/-- A formatting state within R180 and R185: 24 characters at most, and one mark at most, set where formatting has ended. -/
structure Fmt.Fits (x : Fmt) : Prop where
  length : x.line.length ≤ 24
  marks : (x.short && x.trunc) = false
  going : x.done = false → x.short = false ∧ x.trunc = false

theorem Fmt.Fits.emit (h : x.Fits) (c : Byte) : (x.emit c).Fits := by
  unfold Fmt.emit
  split
  · exact h
  · next hgoing =>
    obtain ⟨hshort, htrunc⟩ := h.going (by simpa using hgoing)
    split
    · exact ⟨h.length, by simp [hshort], nofun⟩
    · next hroom => exact ⟨by simp; omega, h.marks, h.going⟩

theorem Fmt.emit_significant (c : Byte) : (x.emit c).significant = x.significant := by
  unfold Fmt.emit
  repeat' split
  all_goals rfl

theorem Fmt.Fits.emitFloat (h : x.Fits) : x.emitFloat.Fits := by
  unfold Fmt.emitFloat
  split
  · exact h.emit _
  · exact h

theorem Fmt.emitFloat_significant : x.emitFloat.significant = x.significant := by
  unfold Fmt.emitFloat
  split
  · exact Fmt.emit_significant _
  · rfl

theorem Fmt.Fits.raise (h : x.Fits) : x.raise.Fits := by
  unfold Fmt.raise
  split
  · exact h
  · exact Fmt.Fits.emitFloat ⟨h.length, h.marks, h.going⟩

theorem Fmt.raise_of_significant (h : x.significant = true) : x.raise = x := if_pos h

theorem Fmt.raise_significant : x.raise.significant = true := by
  unfold Fmt.raise
  split
  · assumption
  · exact Fmt.emitFloat_significant

theorem Fmt.Fits.zsDigit (h : x.Fits) (d : Nat) : (x.zsDigit d).Fits := by
  unfold Fmt.zsDigit
  repeat' split
  exacts [h.emit _, h.raise.emit _, h.emit _]

/-- A digit step keeps a line within its bounds where the use of one digit does (R180, R181). -/
theorem Fmt.Fits.takeDigits {use : Fmt → Nat → Fmt} (huse : ∀ y d, y.Fits → (use y d).Fits) (n : Nat) :
    ∀ x : Fmt, x.Fits → (Fmt.takeDigits use n x).Fits := by
  induction n with
  | zero => exact fun _ h => h
  | succ n ih =>
    intro x h
    unfold Fmt.takeDigits
    split
    · exact h
    · next hgoing =>
      split
      · exact ⟨h.length, by simp [(h.going (by simpa using hgoing)).2], nofun⟩
      · exact ih _ (huse _ _ ⟨h.length, h.marks, h.going⟩)

theorem Fmt.Fits.step (h : x.Fits) (p : Step) : (x.step entry p).Fits := by
  have hsame : ∀ y : Fmt, y.line = x.line → y.short = x.short → y.trunc = x.trunc → y.done = x.done → y.Fits :=
    fun y h1 h2 h3 h4 => ⟨h1 ▸ h.length, h2 ▸ h3 ▸ h.marks, h2 ▸ h3 ▸ h4 ▸ h.going⟩
  cases p with
  | sel | fill | float | fsign | sig => exact hsame _ rfl rfl rfl rfl
  | jz | ja => exact h
  | zs n => exact .takeDigits (fun _ d hy => hy.zsDigit d) n x h
  | cp n => exact .takeDigits (fun _ _ hy => hy.emit _) n _ h.raise
  | sk n => exact .takeDigits (fun _ _ hy => hy) n x h
  | lit | lits | minus | plus => exact h.emit _
  | stop => exact ⟨h.length, h.marks, nofun⟩

theorem Fmt.Fits.runFrom (steps : List Step) : ∀ (n : Nat) (x : Fmt), x.Fits → (Fmt.runFrom entry steps n x).Fits := by
  induction steps with
  | nil => exact fun n x h => by cases n <;> exact h
  | cons p rest ih =>
    intro n x h
    cases n with
    | zero =>
      unfold Fmt.runFrom
      split
      · exact h
      · exact ih _ _ (h.step p)
    | succ n => exact ih n x h

theorem runPattern_fits (steps : List Step) : (runPattern entry steps).Fits :=
  .runFrom steps 0 _ ⟨Nat.zero_le _, rfl, fun _ => ⟨rfl, rfl⟩⟩

/-! ## The steps -/

theorem Fmt.raise_of_not_significant (h : x.significant = false) :
    x.raise = Fmt.emitFloat { x with significant := true } := by
  rw [Fmt.raise, h]
  rfl

theorem Fmt.takeDigits_done (use : Fmt → Nat → Fmt) (n : Nat) (h : x.done = true) : Fmt.takeDigits use n x = x := by
  cases n with
  | zero => rfl
  | succ n => exact if_pos h

theorem Fmt.takeDigits_none (use : Fmt → Nat → Fmt) (n : Nat) (h : x.done = false) (hsource : x.source[x.cursor]? = none) :
    Fmt.takeDigits use (n + 1) x = { x with short := true, done := true } := by
  rw [Fmt.takeDigits, h, hsource]
  rfl

theorem Fmt.takeDigits_some (use : Fmt → Nat → Fmt) (n : Nat) {d : Nat} (h : x.done = false)
    (hsource : x.source[x.cursor]? = some d) :
    Fmt.takeDigits use (n + 1) x = Fmt.takeDigits use n (use { x with cursor := x.cursor + 1 } d) := by
  rw [Fmt.takeDigits, h, hsource]
  rfl

theorem Fmt.zero_iff : x.zero = true ↔ x.absent = false ∧ ∀ d ∈ x.source, d = 0 := by
  simp [Fmt.zero]

theorem digits_seven (v : Nat) : digits 7 v =
    [v / 1000000 % 10, v / 100000 % 10, v / 10000 % 10, v / 1000 % 10, v / 100 % 10, v / 10 % 10, v % 10] := by
  simp [digits, Nat.div_div_eq_div_mul]

theorem negative_iff {f : Field} : entry.negative f = true ↔ f = .delta ∧ ∃ d, entry.delta = some d ∧ d < 0 := by
  cases f with
  | delta =>
    unfold Standing.negative
    cases entry.delta <;> simp
  | _ => exact ⟨nofun, nofun⟩

theorem markByte_short_trunc (short trunc : Bool) :
    markByte [short, false, trunc] = (if short then 1#8 else 0#8) ||| (if trunc then 4#8 else 0#8) := by
  revert short trunc
  decide

/-- A step that jumps leaves the formatting state, and passes on by R184; every other step passes on by one (R178). -/
theorem runFrom_cons (p : Step) (rest : List Step) (h : x.done = false) :
    Fmt.runFrom entry (p :: rest) 0 x = Fmt.runFrom entry rest (x.jump p) (x.step entry p) := by
  rw [Fmt.runFrom, h]
  rfl

theorem Fmt.jump_of_plain {p : Step} (hjz : ∀ n, p ≠ .jz n) (hja : ∀ n, p ≠ .ja n) : x.jump p = 0 := by
  cases p with
  | jz n => exact absurd rfl (hjz n)
  | ja n => exact absurd rfl (hja n)
  | _ => rfl

/-! ## The obligation -/

/-- Settles O38: the answer by the tests of R186 and the bounds of a line, each step by its equation. -/
theorem readLineAnswersALine : Obligations.ReadLineAnswersALine := by
  refine ⟨fun place pattern s hhears hlow hhigh hpattern => ⟨fun hphase => ?_, fun hphase hnone => ?_,
    fun steps entry hphase hsteps hentry => ?_⟩, fun x => ?_, fun entry steps => rfl, fun entry x p rest n => ?_,
    fun entry x n c f => ?_⟩
  · refine exec_refuse (judge := State.readLine place pattern) rfl hhears ?_
    rw [State.readLine, if_neg (by omega), if_pos hphase]
  · refine exec_refuse (judge := State.readLine place pattern) rfl hhears ?_
    rw [State.readLine, if_neg (by omega), if_neg (by simp [hphase])]
    obtain hpat | hlength := hnone
    · rw [hpat]
    · have hentry : s.standingsList[place.toNat - 1]? = none := List.getElem?_eq_none (by omega)
      rw [hentry]
      cases s.pattern pattern.toNat <;> rfl
  · intro x
    have hfits : x.Fits := runPattern_fits steps
    refine ⟨hfits.length, hfits.marks, ?_⟩
    rw [← markByte_short_trunc]
    refine exec_report (judge := State.readLine place pattern) rfl hhears ?_
    rw [State.readLine, if_neg (by omega), if_neg (by simp [hphase]), hsteps, hentry]
    rfl
  · intro seven
    have hseven : digits 7 = seven := funext digits_seven
    refine ⟨by simp [Standing.digits, digits], by simp [Standing.digits, digits], by simp [Standing.digits, digits], rfl,
      rfl, by rw [Standing.digits, hseven], by rw [Standing.digits, hseven], fun f => negative_iff⟩
  · refine ⟨by cases n <;> rfl, rfl, fun hdone => if_pos hdone, fun hgoing => ⟨?_, ?_, fun hjz hja => ?_⟩⟩
    · rw [runFrom_cons _ _ hgoing]
      simp only [Fmt.jump, Fmt.zero_iff, Fmt.step]
    · rw [runFrom_cons _ _ hgoing]
      rfl
    · rw [runFrom_cons _ _ hgoing, Fmt.jump_of_plain hjz hja]
  · intro out turnOn take char
    have hturn : ∀ y : Fmt, y.significant = false → y.raise = turnOn y := fun y hy => Fmt.raise_of_not_significant hy
    have htake : ∀ use next : Fmt → Nat → Fmt, x.done = false →
        (∀ d, Fmt.takeDigits use n (use { x with cursor := x.cursor + 1 } d) = next { x with cursor := x.cursor + 1 } d) →
        Fmt.takeDigits use (n + 1) x = take next := by
      intro use next hgoing hnext
      cases hsource : x.source[x.cursor]? with
      | none =>
        rw [Fmt.takeDigits_none use n hgoing hsource]
        simp only [take, hsource]
      | some d =>
        rw [Fmt.takeDigits_some use n hgoing hsource, hnext]
        simp only [take, hsource]
    clear_value take
    refine ⟨fun hgoing => ⟨rfl, rfl, rfl, ?_, ?_, ?_, fun hsignificant => ?_, fun hsignificant => ?_, rfl, rfl, rfl, rfl, rfl, rfl, rfl, rfl, rfl⟩,
      fun hdone => ⟨Fmt.takeDigits_done _ n hdone, Fmt.takeDigits_done _ n hdone, fun hsignificant => ?_⟩⟩
    · show x.raise = _
      cases hsignificant : x.significant with
      | true => rw [Fmt.raise_of_significant hsignificant]; rfl
      | false => rw [hturn x hsignificant]; rfl
    · show Fmt.takeDigits Fmt.zsDigit (n + 1) x = _
      refine htake _ _ hgoing fun d => ?_
      generalize ({ x with cursor := x.cursor + 1 } : Fmt) = y
      show Fmt.takeDigits Fmt.zsDigit n (y.zsDigit d) = Fmt.takeDigits Fmt.zsDigit n _
      unfold Fmt.zsDigit
      cases hsignificant : y.significant with
      | true => rfl
      | false => rw [hturn y hsignificant]; rfl
    · show Fmt.takeDigits (fun y _ => y) (n + 1) x = _
      exact htake _ _ hgoing fun d => rfl
    · show Fmt.takeDigits _ (n + 1) x.raise = _
      rw [Fmt.raise_of_significant hsignificant]
      refine htake _ _ hgoing fun d => ?_
      have htaken : ({ x with cursor := x.cursor + 1 } : Fmt).significant = true := hsignificant
      exact congrArg (Fmt.takeDigits _ n)
        (Fmt.raise_of_significant ((Fmt.emit_significant (digitChar d)).trans htaken)).symm
    · show Fmt.takeDigits _ (n + 1) x.raise = Fmt.takeDigits _ (n + 1) (turnOn x).raise
      rw [← hturn x hsignificant, Fmt.raise_of_significant Fmt.raise_significant]
    · show Fmt.takeDigits _ n x.raise = x
      rw [Fmt.raise_of_significant hsignificant]
      exact Fmt.takeDigits_done _ n hdone

end Sys2Proof.Machine
end

section

/-! The end of a session: what LEAVE and NEW RACE leave of the Peer Table, and how the frames of a freeze are applied there
(R60, R71, R74 to R77). -/

namespace Sys2Proof.Machine

variable {s t u : State} {f g : Frame} {ta : Time}

/-! ## The Peer Table -/

theorem State.dropCars_at (s : State) (st : Station) : s.dropCars.table.at st = (s.table.at st).withoutCar := by
  simp [State.dropCars, Table.at]

/-- A drain with one frame of a sender applies it to the entry that stood before (R61, R62, R66). -/
theorem drainList_entry {l : List Frame} (hsenders : (l.map Frame.sender).Nodup) (hg : g ∈ l) : ∀ s : State,
    ∃ u : State, (drainList ta l s).table.at g.sender = u.appliedEntry g ta ∧
      u.table.at g.sender = s.table.at g.sender := by
  induction l with
  | nil => cases hg
  | cons f fs ih =>
    intro s
    rw [List.map_cons, List.nodup_cons] at hsenders
    obtain ⟨hnew, hrest⟩ := hsenders
    obtain rfl | hlater := List.mem_cons.1 hg
    · refine ⟨s.popQueue, ?_, rfl⟩
      have hothers : ∀ g' ∈ fs, g'.sender ≠ g.sender := fun g' hg' hsender =>
        hnew (hsender ▸ List.mem_map_of_mem (f := Frame.sender) hg')
      rw [drainList, drainList_at _ _ _ hothers, State.applyFrame_table, Table.put_at_self]
    · obtain ⟨u, hentry, hbefore⟩ := ih hrest hlater (s.popQueue.applyFrame f ta)
      have hne : g.sender ≠ f.sender := fun h => hnew (h ▸ List.mem_map_of_mem hlater)
      refine ⟨u, hentry, hbefore.trans ?_⟩
      rw [State.popQueue_applyFrame_table, Table.put_at_ne _ _ hne]
      rfl

/-- An end of the race leaves the table without a freeze and a queue (R60, R71). -/
theorem State.clearTable_queue (hok : s.table.QueueOk) :
    s.clearTable.table.freeze = none ∧ s.clearTable.table.queue = [] ∧ s.clearTable.table.merges = s.table.merges ∧
      s.clearTable.table.overruns = s.table.overruns := by
  show s.endFreeze.table.freeze = none ∧ s.endFreeze.table.queue = [] ∧ s.endFreeze.table.merges = s.table.merges ∧
    s.endFreeze.table.overruns = s.table.overruns
  cases hfreeze : s.table.freeze with
  | none =>
    have hsame : s.endFreeze = s := by rw [State.endFreeze, hfreeze]
    rw [hsame]
    exact ⟨hfreeze, hok.empty hfreeze, rfl, rfl⟩
  | some x =>
    obtain ⟨hqueue, hthawed, -, hmerges, hoverruns⟩ := State.endFreeze_table hfreeze
    exact ⟨hthawed, hqueue, hmerges, hoverruns⟩

/-- No car record, residual or blend outlasts the race (R71). -/
theorem State.clearTable_cars (s : State) (st : Station) : (s.clearTable.table.at st).car = none ∧
    (s.clearTable.table.at st).residual = 0 ∧ (s.clearTable.table.at st).blendStart = 0 := by
  rw [State.clearTable, State.dropCars_at]
  exact ⟨rfl, rfl, rfl⟩

/-- A station without a waiting frame keeps its beacon and its last frame kind (R71). -/
theorem State.clearTable_unheard {st : Station} (h : ∀ g ∈ s.table.queue, g.sender ≠ st) :
    (s.clearTable.table.at st).beacon = (s.table.at st).beacon ∧
      (s.clearTable.table.at st).lastKind = (s.table.at st).lastKind := by
  have hsame : s.endFreeze.table.at st = s.table.at st := by
    cases hfreeze : s.table.freeze with
    | none => rw [State.endFreeze, hfreeze]
    | some x =>
      rw [State.endFreeze_frozen hfreeze]
      exact drainList_at x.view s.table.queue s h
  rw [State.clearTable, State.dropCars_at, hsame]
  exact ⟨rfl, rfl⟩

/-- A waiting beacon stands in its sender's entry, and a waiting car frame leaves the beacon there (R60, R71). -/
theorem State.clearTable_heard (hok : s.table.QueueOk) (hg : g ∈ s.table.queue) :
    (∀ b, g.body = .beacon b → (s.clearTable.table.at g.sender).beacon = some (g.tag, b) ∧
      (s.clearTable.table.at g.sender).lastKind = .beacon) ∧
    (∀ c, g.body = .car c → (s.clearTable.table.at g.sender).beacon = (s.table.at g.sender).beacon ∧
      (s.clearTable.table.at g.sender).lastKind = .car) := by
  cases hfreeze : s.table.freeze with
  | none =>
    rw [hok.empty hfreeze] at hg
    cases hg
  | some x =>
    obtain ⟨u, hentry, hbefore⟩ := drainList_entry (ta := x.view) hok.senders hg s
    have hthawed : s.endFreeze.table.at g.sender = u.appliedEntry g x.view := by
      rw [State.endFreeze_frozen hfreeze]
      exact hentry
    rw [State.clearTable, State.dropCars_at, hthawed]
    refine ⟨fun b hb => ?_, fun c hc => ?_⟩
    · obtain ⟨hbeacon, hkind, -⟩ := State.appliedEntry_beacon (s := u) hb x.view
      exact ⟨hbeacon, hkind⟩
    · rw [State.appliedEntry_car hc]
      exact ⟨(congrArg Entry.beacon hbefore :), rfl⟩

/-- What the end of a race makes of a Peer Table: no freeze, queue, car record or residual, the beacons and last frame kinds as
they stood or as the waiting frames carried them (R60, R71). -/
structure Table.Cleared (y z : Table) : Prop where
  freeze : z.freeze = none
  queue : z.queue = []
  merges : z.merges = y.merges
  overruns : z.overruns = y.overruns
  cars : ∀ st, (z.at st).car = none ∧ (z.at st).residual = 0 ∧ (z.at st).blendStart = 0
  unheard : ∀ st, (∀ g ∈ y.queue, g.sender ≠ st) →
    (z.at st).beacon = (y.at st).beacon ∧ (z.at st).lastKind = (y.at st).lastKind
  heard : ∀ g ∈ y.queue,
    (∀ b, g.body = .beacon b → (z.at g.sender).beacon = some (g.tag, b) ∧ (z.at g.sender).lastKind = .beacon) ∧
    (∀ c, g.body = .car c → (z.at g.sender).beacon = (y.at g.sender).beacon ∧ (z.at g.sender).lastKind = .car)

theorem State.clearTable_cleared (hok : s.table.QueueOk) : s.table.Cleared s.clearTable.table := by
  obtain ⟨hfreeze, hqueue, hmerges, hoverruns⟩ := State.clearTable_queue hok
  exact ⟨hfreeze, hqueue, hmerges, hoverruns, s.clearTable_cars, fun _ => State.clearTable_unheard,
    fun _ => State.clearTable_heard hok⟩

/-! ## The frames of a freeze -/

/-- An end of the race drains the queue, of which any property stands that every apply keeps, and then moves the table alone,
every beacon as it was (R66, R71). -/
theorem State.clearTable_drained {P : State → Prop} (hstart : P s)
    (hstep : ∀ u f ta, P u → P (u.popQueue.applyFrame f ta)) (hfrozen : ∀ u, P u → u.motion.frozen = none) :
    ∃ d, P d ∧ s.clearTable = d.setTable s.clearTable.table ∧
      (∀ st, (s.clearTable.table.at st).beacon = (d.table.at st).beacon) ∧ (s.table.queue = [] → d = s) := by
  have hdrain : ∀ (l : List Frame) (ta : Time) (u : State), P u → P (drainList ta l u) := by
    intro l
    induction l with
    | nil => exact fun _ _ h => h
    | cons f fs ih => exact fun ta u h => ih ta _ (hstep u f ta h)
  cases hfreeze : s.table.freeze with
  | none =>
    have hsame : s.endFreeze = s := by rw [State.endFreeze, hfreeze]
    refine ⟨s, hstart, ?_, fun st => ?_, fun _ => rfl⟩
    · rw [State.clearTable, hsame]
      rfl
    · rw [State.clearTable, hsame, State.dropCars_at]
      rfl
  | some x =>
    have hd := hdrain s.table.queue x.view s hstart
    have hmotion : { (drainList x.view s.table.queue s).motion with frozen := none } =
        (drainList x.view s.table.queue s).motion := by
      rw [← hfrozen _ hd]
    refine ⟨_, hd, ?_, fun st => ?_, fun hqueue => by rw [hqueue]; rfl⟩
    · rw [State.clearTable, State.endFreeze_frozen hfreeze, hmotion]
      rfl
    · rw [State.clearTable, State.endFreeze_frozen hfreeze, State.dropCars_at]
      rfl

/-! ## The lobby set and the common masks -/

/-- The lobby set reads no more of the Peer Table than its beacons (R81). -/
theorem State.gathers_of_beacons (hstraps : t.straps = s.straps) (hlink : t.link = s.link)
    (hbeacons : ∀ st, (t.table.at st).beacon = (s.table.at st).beacon) : t.gathers = s.gathers := by
  funext st
  simp [State.gathers, State.own, State.live, hstraps, hlink, hbeacons]

/-- So do the common masks (R83). -/
theorem State.commonOffer_of_beacons (hstraps : t.straps = s.straps) (hset : t.session.lobbySet = s.session.lobbySet)
    (heffective : t.session.effective = s.session.effective)
    (hbeacons : ∀ st, (t.table.at st).beacon = (s.table.at st).beacon) : t.commonOffer = s.commonOffer := by
  have hoffer : t.offerOf = s.offerOf := by
    funext st
    unfold State.offerOf State.own
    rw [hstraps, heffective, hbeacons]
  rw [State.commonOffer, State.commonOffer, hset, hoffer]

/-! ## Frames applied in OFFLINE and in a lobby -/

/-- In OFFLINE and in LOBBY an applied frame stands in its sender's entry, and a re-evaluation follows (R61, R62, R82). -/
theorem State.applyFrame_resting (hphase : s.session.phase = .offline ∨ s.session.phase = .lobby) :
    s.applyFrame f ta = (s.putEntry f.sender (s.appliedEntry f ta)).reevaluate := by
  have hrace : s.session.phase.inRace = false := by
    obtain h | h := hphase <;> rw [h] <;> rfl
  unfold State.applyFrame State.appliedEntry
  cases f.body with
  | beacon b =>
    unfold State.applyBeacon
    dsimp only
    rw [State.standingsTold_idle (by exact hrace)]
    unfold State.sessionToldBeacon State.putEntry
    obtain h | h := hphase <;> simp only [State.setTable_session, h]
  | car c =>
    unfold State.applyCar
    dsimp only
    rw [State.offerFrom_idle (by exact hrace), State.standingsTold_idle (by exact hrace)]

/-- Frames applied in OFFLINE move the table and the lobby set alone (R61, R62, R82). -/
structure State.Gathers (s u : State) : Prop where
  moves : u = (s.setSession { s.session with lobbySet := u.session.lobbySet }).setTable u.table
  gathered : u.Gathered

theorem State.Gathers.applyFrame (hphase : s.session.phase = .offline) (h : s.Gathers u) :
    s.Gathers (u.popQueue.applyFrame f ta) := by
  have hoffline : u.session.phase = .offline := by
    rw [h.moves]
    exact hphase
  rw [State.applyFrame_resting (s := u.popQueue) (.inl hoffline), State.reevaluate_offline (by exact hoffline)]
  refine ⟨?_, State.recomputeLobby_gathered⟩
  rw [h.moves]
  rfl

/-- Frames applied in a lobby that may not propose move the table, and resolve the rule over the lobby set with its events
(R61, R62, R82 to R86). -/
structure State.Reresolves (s u : State) : Prop where
  moves : u = ((s.setSession { s.session with
    lobbySet := u.session.lobbySet, rule := u.session.rule, cleardownMark := u.session.cleardownMark }).setTable
      u.table).setPort u.port
  resolves : s.Resolves u
  others : ∀ e : Event, e ≠ .ruleChange → e ≠ .cleardown → u.port.latched e = s.port.latched e
  ruled : u.Ruled
  gathered : u.Gathered

theorem State.Reresolves.applyFrame (hphase : s.session.phase = .lobby) (hready : s.session.ready = false)
    (h : s.Reresolves u) : s.Reresolves (u.popQueue.applyFrame f ta) := by
  have hlobby : u.session.phase = .lobby := by
    rw [h.moves]
    exact hphase
  have hidle : u.session.ready = false := by
    rw [h.moves]
    exact hready
  rw [State.applyFrame_resting (s := u.popQueue) (.inr hlobby)]
  generalize hput : u.popQueue.putEntry f.sender (u.popQueue.appliedEntry f ta) = w
  have hmoved : w = u.setTable w.table := by
    rw [← hput]
    rfl
  have hagain : w.Regathered w.reevaluate := by
    refine State.reevaluate_regathered_idle ?_ (.inl ?_) <;> rw [hmoved]
    exacts [hlobby, hidle]
  have hstirs : u.Stirs w := by
    rw [hmoved]
    exact ⟨rfl, rfl, rfl, rfl, rfl, rfl, fun _ _ => rfl⟩
  obtain ⟨hresolves, hruled⟩ := h.resolves.reevaluate hphase (.inl hready) hstirs
  refine ⟨?_, h.resolves.trans hresolves, fun e hc hd => ?_, hruled, State.reevaluate_gathered⟩
  · rw [hagain.moves, hmoved, h.moves]
    rfl
  · rw [hagain.latched, hmoved]
    simp [hc, hd, h.others e hc hd]

/-! ## The race removed -/

/-- The state in which an end of the race removes the car records (R71, R75, R77). -/
def State.raceless (s : State) : State :=
  ((s.setStandings Standings.empty).setProx s.prox.cleared).setMotion { live := none, frozen := none }

theorem State.removeRace_eq : s.removeRace = s.raceless.clearTable := rfl

/-- Nothing stays of the race but the enable flag of the sweep (R71, R135, R152). -/
theorem State.raceless_rest (hmoves : t.standings = s.raceless.standings ∧ t.prox = s.raceless.prox ∧
      t.motion = s.raceless.motion) :
    t.motion = { live := none, frozen := none } ∧ (∀ st, t.standings.at st = none) ∧ t.standings.final = none ∧
      t.standings.overAt = none ∧ t.standings.cause = none ∧ (∀ st, t.prox.at st = ProxEntry.clear) ∧
      t.prox.position = 0 ∧ t.prox.timer = none ∧ t.prox.enabled = s.prox.enabled := by
  obtain ⟨hstandings, hprox, hmotion⟩ := hmoves
  rw [hstandings, hprox, hmotion]
  exact ⟨rfl, Standings.empty_at, rfl, rfl, rfl, Prox.cleared_at _, rfl, rfl, rfl⟩

/-- A table with the same beacons resolves the same rule over the same lobby set (R81, R83). -/
theorem State.Reresolves.setTable {y : Table} (h : s.Reresolves u)
    (hbeacons : ∀ st, (y.at st).beacon = (u.table.at st).beacon) : s.Reresolves (u.setTable y) := by
  have hgathers : (u.setTable y).gathers = u.gathers := State.gathers_of_beacons rfl rfl hbeacons
  have hcommon : (u.setTable y).commonOffer = u.commonOffer := State.commonOffer_of_beacons rfl rfl rfl hbeacons
  refine ⟨?_, ⟨h.resolves.session, h.resolves.motion, h.resolves.straps, h.resolves.aborted, h.resolves.change,
    h.resolves.down⟩, h.others, ⟨h.ruled.1.trans (congrArg ruleOf hcommon.symm), h.ruled.2⟩,
    h.gathered.trans (congrArg setOf hgathers.symm)⟩
  exact (congrArg (State.setTable · y) h.moves).trans rfl

theorem State.Gathers.setTable {y : Table} (h : s.Gathers u)
    (hbeacons : ∀ st, (y.at st).beacon = (u.table.at st).beacon) : s.Gathers (u.setTable y) := by
  have hgathers : (u.setTable y).gathers = u.gathers := State.gathers_of_beacons rfl rfl hbeacons
  exact ⟨(congrArg (State.setTable · y) h.moves).trans rfl, h.gathered.trans (congrArg setOf hgathers.symm)⟩

/-- At NEW RACE: the race removed in a lobby whose rule is resolved, each waiting frame with its re-evaluation (R76, R77). -/
theorem State.removeRace_reresolves (hphase : s.session.phase = .lobby) (hready : s.session.ready = false)
    (hruled : s.Ruled) (hgathered : s.Gathered) : s.raceless.Reresolves s.removeRace ∧
      (s.table.queue = [] → s.removeRace = s.raceless.setTable s.removeRace.table) := by
  obtain ⟨d, hd, hmoves, hbeacons, hempty⟩ := State.clearTable_drained (s := s.raceless) (P := s.raceless.Reresolves)
    ⟨rfl, State.Stirs.rfl.resolves, fun _ _ _ => rfl, hruled, hgathered⟩ (fun _ _ _ h => h.applyFrame hphase hready)
    fun _ h => (congrArg Motion.frozen h.resolves.motion).trans rfl
  refine ⟨?_, fun hqueue => ?_⟩
  · rw [State.removeRace_eq, hmoves]
    exact hd.setTable hbeacons
  · rw [hempty hqueue] at hmoves
    exact hmoves

/-- At LEAVE: the race removed in OFFLINE, each waiting frame with its re-evaluation (R74, R75). -/
theorem State.removeRace_gathers (hphase : s.session.phase = .offline) (hgathered : s.Gathered) :
    s.raceless.Gathers s.removeRace := by
  obtain ⟨d, hd, hmoves, hbeacons, -⟩ := State.clearTable_drained (s := s.raceless) (P := s.raceless.Gathers)
    ⟨rfl, hgathered⟩ (fun _ _ _ h => h.applyFrame hphase) fun _ h => by rw [h.moves]; rfl
  rw [State.removeRace_eq, hmoves]
  exact hd.setTable hbeacons

/-! ## The obligations -/

/-- The session of NEW RACE before the rule is resolved afresh (R76). -/
def Session.renewed (x : Session) : Session :=
  { x.dissolve.stopTimers with phase := .lobby, ready := false, abortHold := none }

/-- Settles O20: the rule resolved at NEW RACE, and again by each waiting frame. -/
theorem newRaceReturnsToTheLobby : Obligations.NewRaceReturnsToTheLobby := by
  intro s hhears hphase hok
  have hjudge : s.newRace = s.newRaceSession.removeRace.done := if_pos hphase
  have hfresh : (s.setSession s.session.renewed).Regathered s.newRaceSession :=
    State.reevaluate_regathered_idle (s := s.setSession s.session.renewed) rfl (.inl rfl)
  have hquiet := State.newRaceSession_quiet (s := s)
  have hgathered : s.newRaceSession.Gathered := State.reevaluate_gathered (s := s.setSession s.session.renewed)
  refine ⟨_, exec_done (judge := State.newRace) rfl hhears hjudge, ?_⟩
  generalize s.newRaceSession = n at hfresh hquiet hgathered
  have happlies := hquiet.toApplies.trans State.removeRace_applies
  have hnew := hfresh.session
  obtain ⟨hagain, hempty⟩ := State.removeRace_reresolves (s := n) ((congrArg Session.phase hnew).trans rfl)
    ((congrArg Session.ready hnew).trans rfl) ⟨hfresh.rule, hfresh.mark⟩ hgathered
  have htable : n.table.Cleared n.removeRace.table := State.clearTable_cleared (s := n.raceless) (hquiet.table ▸ hok)
  rw [hquiet.table] at htable hempty
  generalize n.removeRace = t at *
  have hsession : t.session = { s.session.renewed with
      lobbySet := t.session.lobbySet, rule := t.session.rule, cleardownMark := t.session.cleardownMark } := by
    have hkept : n.raceless.session = n.session := rfl
    refine hagain.resolves.session.trans ?_
    rw [hkept, hnew]
    rfl
  obtain ⟨hmotion, hstarters, hfinal, hover, hcause, hpeers, hposition, htimer, henabled⟩ :=
    n.raceless_rest (t := t) ⟨by rw [hagain.moves]; rfl, by rw [hagain.moves]; rfl, hagain.resolves.motion⟩
  have hlatched : ∀ e : Event, n.port.latched e = (s.port.latched e ||
      (decide (e = .ruleChange) && decide (n.session.rule ≠ s.session.rule)) ||
      (decide (e = .cleardown) && n.session.cleardownMark)) := fun e =>
    (hfresh.latched e).trans (congrArg (_ || ·) (Bool.and_true _))
  have hnone : t.session.proposals = Vector.replicate 16 none := (congrArg Session.proposals hsession).trans rfl
  have hset : ∀ st, member t.session.lobbySet st = t.gathers st := fun st =>
    (congrArg (member · st) hagain.gathered).trans (member_setOf _ st)
  refine ⟨(congrArg Session.phase hsession).trans rfl, (congrArg Session.ready hsession).trans rfl,
    (congrArg Session.abortHold hsession).trans rfl, (congrArg Session.roster hsession).trans rfl,
    Session.proposalOf_none hnone, (congrArg Session.agreed hsession).trans rfl, (congrArg Session.tag hsession).trans rfl,
    (congrArg Session.earliest hsession).trans rfl, (congrArg Session.deadline hsession).trans rfl,
    (congrArg Session.limit hsession).trans rfl, (congrArg Session.held hsession).trans rfl, hagain.ruled.1, hset,
    hagain.ruled.2, fun hrule => ?_, fun hmark => ?_, fun hqueue e => ?_, fun e hc hd => ?_,
    (congrArg Session.hostOffer hsession).trans rfl, (congrArg Session.effective hsession).trans rfl,
    (congrArg Session.lastAbort hsession).trans rfl, htable.freeze, htable.queue, htable.cars, htable.unheard,
    htable.heard, hmotion, hstarters, hfinal, hover, hcause, hpeers, hposition, htimer,
    henabled.trans (congrArg Prox.enabled hfresh.prox), happlies.port.latch, happlies.port.mask, rfl, happlies.pending,
    happlies.choices, happlies.inReset.trans hhears.1, happlies.straps, happlies.store, happlies.bus, happlies.clock,
    happlies.link, happlies.patterns⟩
  · have hdiffers : t.session.rule ≠ s.session.rule := hrule
    refine hagain.resolves.change ?_
    by_cases hchange : t.session.rule = n.session.rule
    · refine .inl ((hlatched .ruleChange).trans ?_)
      simp [← hchange, hdiffers]
    · exact .inr hchange
  · refine hagain.resolves.down ?_
    by_cases hdown : n.session.cleardownMark = true
    · refine .inl ((hlatched .cleardown).trans ?_)
      simp [hdown]
    · exact .inr ⟨hmark, (Bool.not_eq_true _).mp hdown⟩
  · have hport : t.port = n.port := (congrArg State.port (hempty hqueue)).trans rfl
    have hsame : t.session = n.session := (congrArg State.session (hempty hqueue)).trans rfl
    show t.port.latched e = (s.port.latched e || (decide (e = .ruleChange) && decide (t.session.rule ≠ s.session.rule)) ||
      (decide (e = .cleardown) && t.session.cleardownMark))
    rw [hport, hsame]
    exact hlatched e
  · refine (hagain.others e hc hd).trans ((hlatched e).trans ?_)
    simp [hc, hd]

/-! ## LEAVE -/

theorem State.signal_latched (s : State) (e e' : Event) :
    (s.signal e).port.latched e' = (s.port.latched e' || decide (e' = e)) := Port.occur_latched s.port e e' none

theorem State.leaveTold_latched (e : Event) : s.leaveTold.port.latched e =
    (s.port.latched e || (decide (e = .aborted) && s.session.phase.countdown)) := by
  unfold State.leaveTold
  split
  · next h => exact (State.signal_latched ..).trans (by simp [h])
  · next h => simp [(Bool.not_eq_true _).mp h]

/-- LEAVE latches ABORTED where it ends a countdown, and RULE_CHANGE where a rule was resolved (R85, R106). -/
theorem State.leaveSession_latched (e : Event) : s.leaveSession.port.latched e = (s.port.latched e ||
    (decide (e = .aborted) && s.session.phase.countdown) ||
    (decide (e = .ruleChange) && decide (s.session.rule ≠ none))) := by
  rw [State.leaveSession_eq, ← State.leaveTold_latched]
  split
  · next h => simp [h, State.recomputeLobby]
  · next h => exact (State.signal_latched ..).trans (by simp [h])

theorem State.leaveSession_gathered : s.leaveSession.Gathered := by
  rw [State.leaveSession_eq]
  exact State.recomputeLobby_gathered

/-- Freeing the clock in OFFLINE latches CLOCK_STATE where it was not FREE (R42, R53). -/
theorem State.freeClock_latched (h : s.session.phase = .offline) (e : Event) : s.freeClock.port.latched e =
    (s.port.latched e || (decide (e = .clockState) && decide (s.clock.state ≠ .free))) := by
  rw [State.freeClock_eq h]
  split
  · next hfree => simp [hfree]
  · next hheld => exact (State.signal_latched ..).trans (by simp [hheld])

theorem State.freeClock_gathered (h : s.session.phase = .offline) (hgathered : s.Gathered) : s.freeClock.Gathered := by
  rw [State.freeClock_eq h]
  split
  · exact hgathered
  · exact State.recomputeLobby_gathered

theorem Bus.close_tx (b : Bus) : b.close = { b with
    period := none
    tx := match b.tx with
      | .sending f n stamp _ _ => .sending f n stamp true none
      | _ => .idle } := by
  unfold Bus.close
  cases b.tx <;> rfl

/-- The state at LEAVE before the race is removed (R15, R53, R74). -/
def State.freed (s : State) : State := (s.leaveSession.setBus s.leaveSession.bus.close).freeClock

/-- What stands at LEAVE before the race is removed (R15, R53, R74). -/
structure State.Freed (s u : State) : Prop where
  moves : u = (((s.setSession { s.session.left with lobbySet := u.session.lobbySet }).setBus s.bus.close).setClock
    s.clock.freed).setPort u.port
  gathered : u.Gathered
  latched : ∀ e : Event, u.port.latched e = (s.port.latched e ||
    (decide (e = .aborted) && s.session.phase.countdown) ||
    (decide (e = .ruleChange) && decide (s.session.rule ≠ none)) ||
    (decide (e = .clockState) && decide (s.clock.state ≠ .free)))

theorem State.freed_spec : s.Freed s.freed := by
  have hsession := s.leaveSession_moves
  have hlatched := s.leaveSession_latched
  have hgathered := s.leaveSession_gathered
  unfold State.freed
  generalize s.leaveSession = a at *
  have hoffline : (a.setBus a.bus.close).session.phase = .offline := by rw [hsession]; rfl
  have hclock : a.clock = s.clock := by rw [hsession]; rfl
  refine ⟨?_, State.freeClock_gathered hoffline hgathered, fun e => ?_⟩
  · have hmoves := State.freeClock_moves hoffline
    generalize (a.setBus a.bus.close).freeClock = u at *
    rw [hmoves, hsession]
    rfl
  · rw [State.freeClock_latched hoffline]
    show (a.port.latched e || (decide (e = .clockState) && decide (a.clock.state ≠ .free))) = _
    rw [hlatched, hclock]

/-- Settles O19: the session, the clock and the latch before the race is removed, and then the race. -/
theorem leaveTearsTheSessionDown : Obligations.LeaveTearsTheSessionDown := by
  refine ⟨fun s hhears hphase => exec_done (judge := State.leave) rfl hhears (if_pos hphase),
    fun s hhears hphase hok => ?_⟩
  have hjudge : s.leave = s.leaveRace.done := if_neg hphase
  have hgrows := s.leaveRace_grows
  refine ⟨_, exec_done (judge := State.leave) rfl hhears hjudge, ?_⟩
  have hleave : s.leaveRace = s.freed.removeRace := rfl
  have hfreed := s.freed_spec
  rw [hleave] at hgrows ⊢
  generalize s.freed = u at hfreed hgrows ⊢
  have htables : u.table = s.table := by rw [hfreed.moves]; rfl
  have hremoved : u.raceless.Gathers u.removeRace :=
    State.removeRace_gathers (by rw [hfreed.moves]; rfl) hfreed.gathered
  have htable : u.table.Cleared u.removeRace.table := State.clearTable_cleared (s := u.raceless) (htables ▸ hok)
  rw [htables] at htable
  have happlies := State.removeRace_applies (s := u)
  generalize u.removeRace = t at hremoved htable hgrows happlies ⊢
  obtain ⟨hmotion, hstarters, hfinal, hover, hcause, hpeers, hposition, htimer, henabled⟩ :=
    u.raceless_rest (t := t) ⟨by rw [hremoved.moves]; rfl, by rw [hremoved.moves]; rfl, by rw [hremoved.moves]; rfl⟩
  have hport : t.port = u.port := by rw [hremoved.moves]; rfl
  have hset : ∀ st, member t.session.lobbySet st = t.gathers st := fun st =>
    (congrArg (member · st) hremoved.gathered).trans (member_setOf _ st)
  have hsession : t.session = { s.session.left with lobbySet := t.session.lobbySet } := by
    have hkept : t.session = { u.session with lobbySet := t.session.lobbySet } :=
      (congrArg State.session hremoved.moves).trans rfl
    have hleft : u.session = { s.session.left with lobbySet := u.session.lobbySet } :=
      (congrArg State.session hfreed.moves).trans rfl
    refine hkept.trans ?_
    rw [hleft]
  have hbefore : u.bus = s.bus.close ∧ u.clock = s.clock.freed ∧ u.pending = s.pending ∧ u.choices = s.choices ∧
      u.inReset = s.inReset ∧ u.straps = s.straps ∧ u.store = s.store ∧ u.link = s.link ∧ u.patterns = s.patterns ∧
      u.prox = s.prox := by
    rw [hfreed.moves]
    exact ⟨rfl, rfl, rfl, rfl, rfl, rfl, rfl, rfl, rfl, rfl⟩
  obtain ⟨hbus, hclock, hpending, hchoices, hreset, hstraps, hstore, hlink, hpatterns, hprox⟩ := hbefore
  have hnow : t.now = s.clock.t := by
    rw [State.now, happlies.clock, hclock]
    exact BitVec.add_zero _
  have hnone : t.session.proposals = Vector.replicate 16 none := (congrArg Session.proposals hsession).trans rfl
  exact ⟨(congrArg Session.phase hsession).trans rfl, (congrArg Session.ready hsession).trans rfl,
    (congrArg Session.abortHold hsession).trans rfl, (congrArg Session.roster hsession).trans rfl,
    Session.proposalOf_none hnone, (congrArg Session.agreed hsession).trans rfl, (congrArg Session.tag hsession).trans rfl,
    (congrArg Session.earliest hsession).trans rfl, (congrArg Session.deadline hsession).trans rfl,
    (congrArg Session.limit hsession).trans rfl, (congrArg Session.rule hsession).trans rfl,
    (congrArg Session.held hsession).trans rfl, (congrArg Session.hostOffer hsession).trans rfl,
    (congrArg Session.effective hsession).trans rfl, (congrArg Session.lastAbort hsession).trans rfl,
    happlies.bus.trans (hbus.trans s.bus.close_tx), happlies.clock.trans hclock, hnow, htable.freeze, htable.queue,
    htable.merges, htable.overruns, htable.cars,
    htable.unheard, htable.heard, hmotion, hstarters, hfinal, hover, hcause, hpeers, hposition, htimer,
    henabled.trans (congrArg Prox.enabled hprox), hset, (congrArg Session.cleardownMark hsession).trans rfl,
    fun e => (congrArg (Port.latched · e) hport).trans (hfreed.latched e), hgrows.latch, hgrows.mask, rfl,
    happlies.pending.trans hpending, happlies.choices.trans hchoices, (happlies.inReset.trans hreset).trans hhears.1,
    happlies.straps.trans hstraps, happlies.store.trans hstore, happlies.link.trans hlink,
    happlies.patterns.trans hpatterns⟩

end Sys2Proof.Machine
end
